-- ==== Sys2Proof/Word.lean ====
section
/-! DEFINITION. The word types of the block: bytes, the command and event words, and the 32-bit counters. -/

namespace Sys2Proof

/-- One byte, as a port carries it (R63, R64). -/
abbrev Byte := BitVec 8

/-- A whole command word, format CMD64 (R80). -/
abbrev CmdWord := BitVec 64

/-- A whole event word, format EVT8 (R90). -/
abbrev EvtWord := BitVec 8

/-- A 32-bit interrupt counter: NEED and CNT (R9, R29, R30). -/
abbrev Count := BitVec 32

end Sys2Proof
end

