-- ==== Sys2Proof/Syntax.lean ====
section
/-! DEFINITION. The syntax of the block: the names its rules use, the command and event words, and the ONE inductive of
its operations, one constructor per row of spec/opcode_table.json. -/

namespace Sys2Proof

/-- The three timers, equally the three slots: indices 0, 1, 2 (R8). -/
inductive TimerId where
  | t0 | t1 | t2
deriving DecidableEq, Repr

/-- One value per timer: the NAME[0], NAME[1], NAME[2] of the spec (R16). -/
structure Trio (α : Type) where
  t0 : α
  t1 : α
  t2 : α
deriving DecidableEq, Repr

/-- The four waveform modes of a Claimed slot (R22). -/
inductive Mode where
  | overflow | compareMatch | pwm | phaseCorrectPwm
deriving DecidableEq, Repr

/-- The five prescaler divisors (R23). -/
inductive Prescaler where
  | div1 | div8 | div64 | div256 | div1024
deriving DecidableEq, Repr

/-- The two interrupt usages of an INIT record (R84). -/
inductive IntUsage where
  | interrupt | polling
deriving DecidableEq, Repr

/-- The two kinds of event of a timer (R90, R230). -/
inductive EventKind where
  | overflow | compare
deriving DecidableEq, Repr

/-- The width W(i) of a timer's counter: 8 or 16 bits (R10). -/
inductive Width where
  | w8 | w16
deriving DecidableEq, Repr

/-- The operations of the block: six commands (R81) and two events (R90). The operands are the fields of the word as they
stand there (R92): a command accepts every value of each and answers an illegal one with a status code. -/
inductive Instr where
  /-- INIT (R110): IDX, IU, MODE, PRE, CB. -/
  | init (idx : BitVec 8) (iu : BitVec 2) (mode : BitVec 3) (pre : BitVec 3) (cb : BitVec 16)
  /-- DEINIT (R120): IDX. -/
  | deinit (idx : BitVec 8)
  /-- ENABLE (R124): IDX. -/
  | enable (idx : BitVec 8)
  /-- DISABLE (R128): IDX. -/
  | disable (idx : BitVec 8)
  /-- DELAY (R150): IDX, MS. -/
  | delay (idx : BitVec 8) (ms : BitVec 32)
  /-- GENPWM (R176): IDX, DUTY. -/
  | genpwm (idx : BitVec 8) (duty : BitVec 8)
  /-- EVT.OVF (R196): EIDX. -/
  | evtOvf (eidx : BitVec 2)
  /-- EVT.CMP (R197): EIDX. -/
  | evtCmp (eidx : BitVec 2)
deriving DecidableEq, Repr

/-- A whole word on one of the two input ports (R60, R89). -/
inductive PortWord where
  | command (w : CmdWord)
  | event (w : EvtWord)
deriving DecidableEq, Repr

/-- What an input port is given: a command as the bytes that carry it, byte 0 first (R64), which may be too few or too many
(R65), or one event byte (R90). The port tells the length (R89). -/
inductive PortInput where
  | command (bytes : List Byte)
  | event (w : Byte)
deriving DecidableEq, Repr

/-- What the outside does to the block in one step: it presents something on a port, or it resets the block (R260). -/
inductive Input where
  | port (p : PortInput)
  | reset
deriving DecidableEq, Repr

end Sys2Proof
end

