-- ==== Sys2Proof/Config.lean ====
section
/-! DEFINITION. The implementation parameters of the block (R8 to R14) as plain data, and their defaults. A state carries
one such record and no step changes it (log 1). Which records are legal is `Config.legal` in Machine/Calc.lean. -/

namespace Sys2Proof

/-- A GPIO identifier {port, pin index}, opaque to the block (R12, R242). -/
structure GpioPin where
  port : Nat
  pin  : Nat
deriving DecidableEq, Repr

/-- PWM_STRATEGY(i), with PWM_PIN(i) where the strategy toggles one (R12): the native strategy drives no pin from the block
and the spec gives PWM_PIN no default, so only `emulation` carries a pin (log 1). -/
inductive PwmStrategy where
  | native
  | emulation (pin : GpioPin)
deriving DecidableEq, Repr

/-- CS_CODE(i, ·) of one timer: the 3-bit clock-source code of each divisor (R13). -/
structure CsCodes where
  div1    : BitVec 3
  div8    : BitVec 3
  div64   : BitVec 3
  div256  : BitVec 3
  div1024 : BitVec 3
deriving DecidableEq, Repr

/-- WGM_CODE: the 2-bit waveform code of each mode (R13). -/
structure WgmCodes where
  overflow        : BitVec 2
  compareMatch    : BitVec 2
  pwm             : BitVec 2
  phaseCorrectPwm : BitVec 2
deriving DecidableEq, Repr

/-- The parameters that belong to one timer: W(i) (R10), PWM_STRATEGY(i) and PWM_PIN(i) (R12), CS_CODE(i, ·) (R13). -/
structure TimerConfig where
  width    : Width
  strategy : PwmStrategy
  cs       : CsCodes
deriving DecidableEq, Repr

/-- All parameters of a block: per timer, F_CPU in hertz (R11), WGM_CODE (R13) and ARM_RESETS_COUNTER (R14). -/
structure Config where
  timers           : Trio TimerConfig
  fcpu             : Nat
  wgm              : WgmCodes
  armResetsCounter : Bool
deriving DecidableEq, Repr

/-- The default CS_CODE of every timer (R13). -/
def CsCodes.default : CsCodes :=
  { div1 := 0b001#3, div8 := 0b010#3, div64 := 0b011#3, div256 := 0b100#3, div1024 := 0b101#3 }

/-- The default WGM_CODE (R13). -/
def WgmCodes.default : WgmCodes :=
  { overflow := 0b00#2, phaseCorrectPwm := 0b01#2, compareMatch := 0b10#2, pwm := 0b11#2 }

/-- A timer of the given width with the default strategy and codes (R12, R13). -/
def TimerConfig.ofWidth (w : Width) : TimerConfig :=
  { width := w, strategy := .native, cs := CsCodes.default }

/-- The default parameters: W = (8, 16, 8), F_CPU = 16 000 000, Native, ARM_RESETS_COUNTER = true (R10 to R14). -/
def Config.default : Config :=
  { timers := { t0 := TimerConfig.ofWidth .w8, t1 := TimerConfig.ofWidth .w16, t2 := TimerConfig.ofWidth .w8 }
    fcpu := 16000000
    wgm := WgmCodes.default
    armResetsCounter := true }

end Sys2Proof
end

