-- ==== Sys2Proof/Machine/State.lean ====
section
/-! DEFINITION. The state of the block as plain data: the four groups of R20 (slot table and DBI, shared interrupt counters,
output latches and GIE, FAULT), the outputs of the last step, and the model's own fields (parameters, the word in progress,
the inputs still to come). Then the reasons a step can stop, and the state after reset. -/

namespace Sys2Proof.Machine

/-- Why the machine stops with a fault: the fault reasons of R224. -/
inductive Fault where
  /-- A command or event read a slot field while DBI = 0 (R117, R190, R224). The operation that reads it takes a next state
  whose FAULT holds this reason; `step` answers this outcome from then on, since a faulted block takes no further step
  (R225). Safe: nothing can be proved of a run that goes past it. -/
  | staleTable
deriving DecidableEq, Repr

/-- Why a step gives no meaning. -/
inductive Refusal where
  /-- An operation of the opcode table that has no meaning yet, by its mnemonic; raised by no arm of `exec`. Safe. -/
  | notModelled (mnemonic : String)
  /-- A parameter outside its legal range (00_scope.md section 4, R11, R13); raised by `step`, and by DELAY where the
  overflow period would be a zero divisor. Safe: the spec has no meaning for such a block. -/
  | illegalConfig
  /-- A command of other than 8 bytes (R65); raised by `step`. Safe: the host never presents one (R249). -/
  | partialCommand
  /-- An event with EIDX = 3 (R91); raised by `step` and by the two events' meanings. Safe: the peripheral never presents
  one (R249). -/
  | noSuchTimer
  /-- An event that IE and GIE do not admit (R230); raised by `step`. Safe: the peripheral never presents one (R249). -/
  | eventNotAdmitted
deriving DecidableEq, Repr

/-- The status codes of R220, by name; their numbers are `Status.code`. -/
inductive Status where
  | success
  | invalidArguments
  | notInitialized
  | alreadyInitialized
  | unsupportedFeature
  | outOfBoundary
  | unsupportedConfiguration
deriving DecidableEq, Repr

/-- One slot of the table: S_IDX, S_MODE, S_PRE, S_EN, S_CB (R21 to R25). -/
structure Slot where
  idx  : BitVec 8
  mode : BitVec 3
  pre  : BitVec 3
  en   : Bool
  cb   : BitVec 16
deriving DecidableEq, Repr

/-- The shared interrupt counters of one timer: NEED, CNT, ON, OFF, TGL (R29 to R32). -/
structure Counters where
  need : Count
  cnt  : Count
  on   : BitVec 16
  off  : BitVec 16
  tgl  : Bool
deriving DecidableEq, Repr

/-- The output latches of one timer: CTRL, OCR, TLOAD, IE (R34 to R39). OCR and TLOAD are W(i) bits wide and stand in the
low bits (log 5). -/
structure Latches where
  ctrl  : BitVec 8
  ocr   : BitVec 16
  tload : BitVec 16
  ie    : BitVec 2
deriving DecidableEq, Repr

/-- A Fire(h, i) pulse: the callback handle and the timer identity (R247). -/
structure FirePulse where
  handle : BitVec 16
  timer  : TimerId
deriving DecidableEq, Repr

/-- The outputs of one step: the status code of a command (R220), the Fire pulse (R247), the Toggle pulse (R248). -/
structure Outputs where
  status : Option Status
  fire   : Option FirePulse
  toggle : Option GpioPin
deriving DecidableEq, Repr

/-- What FAULT holds: the reason and the offending command or event word (R41, R224). The word is none only where an
operation is executed outside a step. -/
structure FaultRecord where
  reason : Fault
  word   : Option PortWord
deriving DecidableEq, Repr

/-- The state of the block. -/
structure State where
  /-- The implementation parameters (R8 to R14); no step writes them (log 1). -/
  cfg     : Config
  /-- DBI: the slot table holds values (R26). -/
  dbi     : Bool
  /-- The slot table (R20 (1)); its fields hold no value while DBI = 0 and no rule reads them then (R26). -/
  slots   : Trio Slot
  /-- The shared interrupt counters (R20 (2)). -/
  ctrs    : Trio Counters
  /-- The output latches (R20 (3)). -/
  latches : Trio Latches
  /-- GIE (R40). -/
  gie     : Bool
  /-- FAULT (R41). -/
  fault   : Option FaultRecord
  /-- The outputs of the last step (R60 (c), R220, R247, R248; log 3). -/
  out     : Outputs
  /-- The model's own: the word of the step in progress, else of the last one (R224; log 3). -/
  current : Option PortWord
  /-- The model's own: what the outside presents from here on, first first (R42, R69, R232; log 2). -/
  inbox   : List Input
deriving DecidableEq, Repr

/-- What a slot field stands at while it holds no value: zero (DESIGN CHOICE, log 4). -/
def Slot.stale : Slot := { idx := 0#8, mode := 0#3, pre := 0#3, en := false, cb := 0#16 }

/-- Counters after reset (R46). -/
def Counters.zero : Counters := { need := 0#32, cnt := 0#32, on := 0#16, off := 0#16, tgl := false }

/-- Output latches after reset (R46). -/
def Latches.zero : Latches := { ctrl := 0x00#8, ocr := 0#16, tload := 0#16, ie := 0b00#2 }

/-- A step without outputs. -/
def Outputs.none : Outputs := { status := .none, fire := .none, toggle := .none }

/-- The reset values of R46 and R260 in a block with the given parameters, nothing presented yet. -/
def State.afterReset (cfg : Config) : State :=
  { cfg := cfg
    dbi := false
    slots := { t0 := Slot.stale, t1 := Slot.stale, t2 := Slot.stale }
    ctrs := { t0 := Counters.zero, t1 := Counters.zero, t2 := Counters.zero }
    latches := { t0 := Latches.zero, t1 := Latches.zero, t2 := Latches.zero }
    gie := false
    fault := .none
    out := Outputs.none
    current := .none
    inbox := [] }

/-- The block right after reset, with the default parameters (R10 to R14, R46, R260). -/
def State.reset : State := State.afterReset Config.default

end Sys2Proof.Machine
end

