-- ==== Sys2Proof/Machine/Operands.lean ====
section
/-! DEFINITION. The operand values of the block's operations and what they stand for: timer indices, waveform modes,
prescalers, interrupt usage, duty cycles, event indices; and the reads and writes of one timer's share of a `Trio`. -/

namespace Sys2Proof

/-! ## One timer's share (R16) -/

/-- NAME[i]. -/
def Trio.get {α : Type} (t : Trio α) : TimerId → α
  | .t0 => t.t0
  | .t1 => t.t1
  | .t2 => t.t2

/-- NAME[i] <- v. -/
def Trio.set {α : Type} (t : Trio α) (i : TimerId) (v : α) : Trio α :=
  match i with
  | .t0 => { t with t0 := v }
  | .t1 => { t with t1 := v }
  | .t2 => { t with t2 := v }

/-! ## Timer indices (R21, R82, R90) -/

/-- The index of a timer, as S_IDX and IDX hold it (R21, R82). -/
def TimerId.index : TimerId → BitVec 8
  | .t0 => 0#8
  | .t1 => 1#8
  | .t2 => 2#8

/-- The index of a timer, as EIDX holds it (R90). -/
def TimerId.eidx : TimerId → BitVec 2
  | .t0 => 0#2
  | .t1 => 1#2
  | .t2 => 2#2

/-- The timer an IDX operand names; none for the sentinel 0xFF and for 3 to 0xFE alike (R82). -/
def timerOf? (idx : BitVec 8) : Option TimerId :=
  if idx = 0#8 then some .t0
  else if idx = 1#8 then some .t1
  else if idx = 2#8 then some .t2
  else none

/-- The timer an EIDX operand names; none for 3 (R90, R91). -/
def eventTimer? (eidx : BitVec 2) : Option TimerId :=
  if eidx = 0#2 then some .t0
  else if eidx = 1#2 then some .t1
  else if eidx = 2#2 then some .t2
  else none

/-- The timer an operation names by its IDX (R82) or EIDX (R90); none where it names none (R91, R116). -/
def Instr.timer? : Instr → Option TimerId
  | .init idx _ _ _ _ => timerOf? idx
  | .deinit idx => timerOf? idx
  | .enable idx => timerOf? idx
  | .disable idx => timerOf? idx
  | .delay idx _ => timerOf? idx
  | .genpwm idx _ => timerOf? idx
  | .evtOvf eidx => eventTimer? eidx
  | .evtCmp eidx => eventTimer? eidx

/-! ## Enumerants (R22, R23, R84) -/

/-- The 3-bit code of a mode (R22, R84). -/
def Mode.code : Mode → BitVec 3
  | .overflow => 0#3
  | .compareMatch => 1#3
  | .pwm => 2#3
  | .phaseCorrectPwm => 3#3

/-- The 3-bit code of a prescaler (R23, R84). -/
def Prescaler.code : Prescaler → BitVec 3
  | .div1 => 0#3
  | .div8 => 1#3
  | .div64 => 2#3
  | .div256 => 3#3
  | .div1024 => 4#3

/-- The 2-bit code of an interrupt usage (R84). -/
def IntUsage.code : IntUsage → BitVec 2
  | .interrupt => 0#2
  | .polling => 1#2

/-- The mode a 3-bit code stands for; none for the Invalid enumerant 7 and for 4 to 6 (R22, R84). -/
def modeOf? (m : BitVec 3) : Option Mode :=
  if m = 0#3 then some .overflow
  else if m = 1#3 then some .compareMatch
  else if m = 2#3 then some .pwm
  else if m = 3#3 then some .phaseCorrectPwm
  else none

/-- The prescaler a 3-bit code stands for; none for the Invalid enumerant 7 and for 5 and 6 (R23, R84). -/
def prescalerOf? (p : BitVec 3) : Option Prescaler :=
  if p = 0#3 then some .div1
  else if p = 1#3 then some .div8
  else if p = 2#3 then some .div64
  else if p = 3#3 then some .div256
  else if p = 4#3 then some .div1024
  else none

/-- The interrupt usage a 2-bit code stands for; none for 2 and 3 (R84). -/
def usageOf? (iu : BitVec 2) : Option IntUsage :=
  if iu = 0#2 then some .interrupt
  else if iu = 1#2 then some .polling
  else none

/-- DIV(p): the divisor of a prescaler (R23). -/
def Prescaler.div : Prescaler → Nat
  | .div1 => 1
  | .div8 => 8
  | .div64 => 64
  | .div256 => 256
  | .div1024 => 1024

/-- The modes that support DELAY: Overflow and Compare-Match (R150). -/
def delayMode? (m : BitVec 3) : Bool := m == 0#3 || m == 1#3

/-- The modes that support GENPWM: PWM and Phase-Correct-PWM (R176, R178). -/
def pwmMode? (m : BitVec 3) : Bool := m == 2#3 || m == 3#3

/-- A duty cycle is legal from 1 to 99 (R170). -/
def dutyLegal (duty : BitVec 8) : Bool := decide (1 ≤ duty.toNat) && decide (duty.toNat ≤ 99)

/-! ## Parameters as functions (R10 to R13) -/

/-- W(i) in bits (R10). -/
def Width.bits : Width → Nat
  | .w8 => 8
  | .w16 => 16

/-- RANGE(i) = 2^W(i) (R10). -/
def Width.range (w : Width) : Nat := 2 ^ w.bits

/-- MAX(i) = 2^W(i) - 1 (R10). -/
def Width.max (w : Width) : Nat := 2 ^ w.bits - 1

/-- The low W(i) bits of a 16-bit value: what a W(i)-bit latch holds of it (R37, R38; log 5). -/
def Width.fit (w : Width) (v : BitVec 16) : BitVec 16 :=
  match w with
  | .w8 => (v.extractLsb' 0 8).setWidth 16
  | .w16 => v

/-- CS_CODE(i, P) (R13). -/
def CsCodes.code (c : CsCodes) : Prescaler → BitVec 3
  | .div1 => c.div1
  | .div8 => c.div8
  | .div64 => c.div64
  | .div256 => c.div256
  | .div1024 => c.div1024

/-- WGM_CODE(m) (R13). -/
def WgmCodes.code (c : WgmCodes) : Mode → BitVec 2
  | .overflow => c.overflow
  | .compareMatch => c.compareMatch
  | .pwm => c.pwm
  | .phaseCorrectPwm => c.phaseCorrectPwm

end Sys2Proof
end

