-- ==== Sys2Proof/Machine/Calc.lean ====
section
/-! DEFINITION. The two calculators as pure functions on naturals: delay to reload (R140 to R146) and duty cycle to
thresholds (R171); and which parameters are legal (R11, R13), which needs the first. -/

namespace Sys2Proof

/-- TICK(P), nanoseconds: (P * 10^6) div (F_CPU div 10^3) (R140). -/
def tick (fcpu : Nat) (p : Prescaler) : Nat := (p.div * 1000000) / (fcpu / 1000)

/-- TOVF(P, W), microseconds: (TICK(P) * 2^W) div 10^3 (R141). -/
def overflowTime (fcpu : Nat) (p : Prescaler) (w : Width) : Nat := (tick fcpu p * w.range) / 1000

/-- The result of the delay calculator: the repeat count and the reload value (R145). -/
structure DelayPlan where
  count  : Nat
  reload : Nat
deriving DecidableEq, Repr

/-- The divide with remainder, the repeat count and the reload for an overflow period of T microseconds (R142 to R144). -/
def planFor (ms T : Nat) (w : Width) : DelayPlan :=
  { count := (ms * 1000) / T + (if (ms * 1000) % T ≠ 0 then 1 else 0)
    reload := w.max - ((ms * 1000) % T * w.range) / T }

/-- CalcDelay(ms, p, W) (R145). -/
def calcDelay (fcpu : Nat) (p : Prescaler) (w : Width) (ms : Nat) : DelayPlan :=
  planFor ms (overflowTime fcpu p w) w

/-- The result of the duty-cycle mapper (R171). -/
structure Thresholds where
  on  : Nat
  off : Nat
deriving DecidableEq, Repr

/-- CalcPwm(duty, W) (R171, R173). -/
def calcPwm (duty : Nat) (w : Width) : Thresholds :=
  { on := duty * w.max / 100
    off := w.max - duty * w.max / 100 }

/-! ## Legal parameters -/

/-- The five prescalers (R23). -/
def Prescaler.all : List Prescaler := [.div1, .div8, .div64, .div256, .div1024]

/-- CS_CODE(i, ·) is injective and never 0b000 (R13). -/
def CsCodes.legal (c : CsCodes) : Bool :=
  decide (List.Pairwise (· ≠ ·) [0b000#3, c.div1, c.div8, c.div64, c.div256, c.div1024])

/-- WGM_CODE is injective (R13). -/
def WgmCodes.legal (c : WgmCodes) : Bool :=
  decide (List.Pairwise (· ≠ ·) [c.overflow, c.compareMatch, c.pwm, c.phaseCorrectPwm])

/-- One timer's parameters are legal at a clock: every overflow period is at least 1 (R11), the codes legal (R13). -/
def TimerConfig.legal (t : TimerConfig) (fcpu : Nat) : Bool :=
  Prescaler.all.all (fun p => decide (1 ≤ overflowTime fcpu p t.width)) && t.cs.legal

/-- The parameters are legal (R10 to R14). -/
def Config.legal (c : Config) : Bool :=
  decide (1000 ≤ c.fcpu) && c.timers.t0.legal c.fcpu && c.timers.t1.legal c.fcpu && c.timers.t2.legal c.fcpu &&
    c.wgm.legal

end Sys2Proof
end

