-- ==== Sys2Proof/Machine/Flags.lean ====
section
/-! DEFINITION. The block has no condition codes (R43). This file holds its bit fields: the CS and WGM fields of CTRL
(R34 to R36), the two IE bits (R39), and the numbers of the status codes (R220). -/

namespace Sys2Proof.Machine

/-- CTRL.CS, bits 2:0 (R34, R35). -/
def ctrlCs (c : BitVec 8) : BitVec 3 := c.extractLsb' 0 3

/-- CTRL.WGM, bits 4:3 (R34, R36). -/
def ctrlWgm (c : BitVec 8) : BitVec 2 := c.extractLsb' 3 2

/-- CTRL bits 7:5, which no rule writes (R34). -/
def ctrlReserved (c : BitVec 8) : BitVec 3 := c.extractLsb' 5 3

/-- CTRL with CS replaced and WGM and bits 7:5 kept (R119, R128). -/
def ctrlWithCs (c : BitVec 8) (cs : BitVec 3) : BitVec 8 := ctrlReserved c ++ ctrlWgm c ++ cs

/-- CTRL with WGM replaced and CS and bits 7:5 kept (R110, R114). -/
def ctrlWithWgm (c : BitVec 8) (wgm : BitVec 2) : BitVec 8 := ctrlReserved c ++ wgm ++ ctrlCs c

/-- The IE bit of an event kind: bit 0 overflow, bit 1 compare (R39). -/
def ieMask : EventKind → BitVec 2
  | .overflow => 0b01#2
  | .compare => 0b10#2

/-- IE with the bit of one kind set and the other kept (R110, R114). -/
def ieSet (ie : BitVec 2) (k : EventKind) : BitVec 2 := ie ||| ieMask k

/-- Whether the bit of one kind is set (R230). -/
def ieBit (ie : BitVec 2) : EventKind → Bool
  | .overflow => ie.getLsbD 0
  | .compare => ie.getLsbD 1

/-- The interrupt source INIT enables for a mode: overflow for Overflow, compare for the three others (R114). -/
def sourceOf : Mode → EventKind
  | .overflow => .overflow
  | .compareMatch => .compare
  | .pwm => .compare
  | .phaseCorrectPwm => .compare

/-- The 8-bit code the command port returns (R220). -/
def Status.code : Status → BitVec 8
  | .success => 0#8
  | .invalidArguments => 1#8
  | .notInitialized => 2#8
  | .alreadyInitialized => 3#8
  | .unsupportedFeature => 4#8
  | .outOfBoundary => 5#8
  | .unsupportedConfiguration => 6#8

end Sys2Proof.Machine
end

