-- ==== Sys2Proof/Machine/Ops.lean ====
section
/-! DEFINITION. The operations over the state that the meanings share: reads and writes of one timer's elements, the
Claimed test and Unclaim (R27, R118), the guards (R116, R117), the enable action (R119), raising the fault (R224), and
returning a status (R17, R220). -/

namespace Sys2Proof.Machine

abbrev Result := Host.Outcome State Fault Refusal

/-! ## Reads and writes of one timer's elements (R16) -/

/-- The parameters of timer i (R10 to R13). -/
def State.timer (s : State) (i : TimerId) : TimerConfig := s.cfg.timers.get i

/-- The slot of timer i (R20 (1)). -/
def State.slot (s : State) (i : TimerId) : Slot := s.slots.get i

/-- The counters of timer i (R20 (2)). -/
def State.ctr (s : State) (i : TimerId) : Counters := s.ctrs.get i

/-- The latches of timer i (R20 (3)). -/
def State.latch (s : State) (i : TimerId) : Latches := s.latches.get i

def State.setSlot (s : State) (i : TimerId) (v : Slot) : State := { s with slots := s.slots.set i v }

def State.setCtr (s : State) (i : TimerId) (v : Counters) : State := { s with ctrs := s.ctrs.set i v }

def State.setLatch (s : State) (i : TimerId) (v : Latches) : State := { s with latches := s.latches.set i v }

/-- S_EN[i] <- b. -/
def State.setEnabled (s : State) (i : TimerId) (b : Bool) : State := s.setSlot i { s.slot i with en := b }

/-- CTRL[i].CS <- cs, the field's other bits kept (R34, R35). -/
def State.setCs (s : State) (i : TimerId) (cs : BitVec 3) : State :=
  s.setLatch i { s.latch i with ctrl := ctrlWithCs (s.latch i).ctrl cs }

/-- CTRL[i].WGM <- wgm, the other bits kept (R34, R36). -/
def State.setWgm (s : State) (i : TimerId) (wgm : BitVec 2) : State :=
  s.setLatch i { s.latch i with ctrl := ctrlWithWgm (s.latch i).ctrl wgm }

/-- The source of one kind of timer i is enabled, and the global enable (R39, R40, R114). -/
def State.enableSource (s : State) (i : TimerId) (k : EventKind) : State :=
  { s.setLatch i { s.latch i with ie := ieSet (s.latch i).ie k } with gie := true }

/-- OCR[i] <- v, the low W(i) bits (R37). -/
def State.setOcr (s : State) (i : TimerId) (v : BitVec 16) : State :=
  s.setLatch i { s.latch i with ocr := (s.timer i).width.fit v }

/-- TLOAD[i] <- v, the low W(i) bits (R38). -/
def State.setTload (s : State) (i : TimerId) (v : BitVec 16) : State :=
  s.setLatch i { s.latch i with tload := (s.timer i).width.fit v }

/-! ## The slot table (R27, R118, R112) -/

/-- The Unclaimed values (R27). -/
def Slot.unclaimed : Slot := { idx := 0xFF#8, mode := 7#3, pre := 7#3, en := false, cb := 0#16 }

/-- The Claimed test: any of the five fields is not its Unclaimed value (R27). -/
def Slot.claimed (v : Slot) : Bool :=
  v.idx != 0xFF#8 || v.mode != 7#3 || v.pre != 7#3 || v.en != false || v.cb != 0#16

/-- Unclaim(j) (R118). -/
def State.unclaim (s : State) (j : TimerId) : State := s.setSlot j Slot.unclaimed

/-- Lazy initialisation: on DBI = 0 every slot becomes Unclaimed and DBI becomes 1 (R112). -/
def State.lazyInit (s : State) : State :=
  if s.dbi then s else { ((s.unclaim .t0).unclaim .t1).unclaim .t2 with dbi := true }

/-! ## Ending an operation -/

/-- `return S`: the command port returns the code; no pulse (R17, R220). -/
def State.returns (s : State) (c : Status) : Result :=
  .next { s with out := { status := some c, fire := none, toggle := none } }

/-- `raise Fault(reason)`: FAULT takes the reason and the offending word; nothing is returned or emitted (R17, R41, R224).
The next step finds FAULT set and stops (R225). -/
def State.raise (s : State) (reason : Fault) : Result :=
  .next { s with fault := some { reason := reason, word := s.current }, out := Outputs.none }

/-- The end of an event step: nothing is returned (R190, R198); the pulses given, if any, are emitted. -/
def State.emits (s : State) (fire : Option FirePulse) (toggle : Option GpioPin) : Result :=
  .next { s with out := { status := none, fire := fire, toggle := toggle } }

/-! ## Guards (R116, R117) -/

/-- `i := index_guard(idx)`: InvalidArguments for an index that names no timer (R116). -/
def withIndex (idx : BitVec 8) (s : State) (k : TimerId → Result) : Result :=
  match timerOf? idx with
  | none => s.returns .invalidArguments
  | some i => k i

/-- `claim_guard(i)`: the fault on a stale table, NotInitialized for an Unclaimed slot (R117). -/
def withClaimed (i : TimerId) (s : State) (k : Result) : Result :=
  if s.dbi = false then s.raise .staleTable
  else if (s.slot i).claimed = false then s.returns .notInitialized
  else k

/-- The stored prescaler, OutOfBoundary where it is none of the five (R126; unreachable, R27). -/
def withPrescaler (i : TimerId) (s : State) (k : Prescaler → Result) : Result :=
  match prescalerOf? (s.slot i).pre with
  | none => s.returns .outOfBoundary
  | some p => k p

/-! ## The enable action -/

/-- do_enable(i): the clock source of the stored prescaler, and the enabled flag (R119). -/
def State.doEnable (s : State) (i : TimerId) (p : Prescaler) : State :=
  (s.setCs i ((s.timer i).cs.code p)).setEnabled i true

end Sys2Proof.Machine
end

