-- ==== Sys2Proof/Machine/Delay.lean ====
section
/-! DEFINITION. DELAY: its checks, the arm-write and the start (R150 to R152). -/

namespace Sys2Proof.Machine

/-- The reload value goes to the counter-load latch in Overflow mode and to the compare latch in Compare-Match mode (R152). -/
def State.writeReload (s : State) (i : TimerId) (reload : BitVec 16) : State :=
  if (s.slot i).mode = 0#3 then s.setTload i reload else s.setOcr i reload

/-- NEED[i] <- count, and CNT[i] <- 0 where ARM_RESETS_COUNTER (R14, R152). -/
def State.armCount (s : State) (i : TimerId) (count : Count) : State :=
  s.setCtr i { s.ctr i with need := count, cnt := if s.cfg.armResetsCounter then 0#32 else (s.ctr i).cnt }

/-- The arm-write of DELAY: reload latch, then repeat count (R70, R152). -/
def State.armDelay (s : State) (i : TimerId) (plan : DelayPlan) : State :=
  (s.writeReload i (BitVec.ofNat 16 plan.reload)).armCount i (BitVec.ofNat 32 plan.count)

/-- DELAY (R150), in the order of R151: index, ms, stale table, Claimed, mode, enabled, prescaler, count range (R147), then
the arm-write and the enable action. A parameter set with a zero overflow period has no meaning (R11). -/
def execDelay (idx : BitVec 8) (ms : BitVec 32) (s : State) : Result :=
  withIndex idx s fun i =>
  if ms = 0#32 then s.returns .invalidArguments
  else withClaimed i s <|
    if delayMode? (s.slot i).mode = false then s.returns .unsupportedFeature
    else if (s.slot i).en then s.returns .unsupportedFeature
    else withPrescaler i s fun p =>
      if overflowTime s.cfg.fcpu p (s.timer i).width = 0 then .refused .illegalConfig
      else
        let plan := calcDelay s.cfg.fcpu p (s.timer i).width ms.toNat
        if 2 ^ 32 - 1 < plan.count then s.returns .invalidArguments
        else ((s.armDelay i plan).doEnable i p).returns .success

end Sys2Proof.Machine
end

