-- ==== Sys2Proof/Machine/Events.lean ====
section
/-! DEFINITION. The interrupt dispatcher: the event step, its count path and its toggle path (R190 to R195), and the two
event operations (R196, R197). -/

namespace Sys2Proof.Machine

/-- fire(i): a Fire pulse with the stored handle, nothing for the null handle (R193). -/
def State.firePulse (s : State) (i : TimerId) : Option FirePulse :=
  if (s.slot i).cb = 0#16 then none else some { handle := (s.slot i).cb, timer := i }

/-- count_path(i): CNT counts modulo 2^32, and on reaching NEED it is cleared and the callback fires (R192). -/
def countPath (i : TimerId) (s : State) : Result :=
  if (s.ctr i).cnt + 1#32 = (s.ctr i).need then
    (s.setCtr i { s.ctr i with cnt := 0#32 }).emits (s.firePulse i) none
  else
    (s.setCtr i { s.ctr i with cnt := (s.ctr i).cnt + 1#32 }).emits none none

/-- toggle_path(i): the pin toggles, and the compare latch takes OFF and ON in turn (R195). -/
def togglePath (i : TimerId) (pin : GpioPin) (s : State) : Result :=
  if (s.ctr i).tgl then
    ((s.setOcr i (s.ctr i).on).setCtr i { s.ctr i with tgl := false }).emits none (some pin)
  else
    ((s.setOcr i (s.ctr i).off).setCtr i { s.ctr i with tgl := true }).emits none (some pin)

/-- EVENT(i, kind): the fault on a stale table, then the toggle path for a compare event of an emulated PWM slot and the
count path for every other event (R190, R191). -/
def eventStep (i : TimerId) (kind : EventKind) (s : State) : Result :=
  if s.dbi = false then s.raise .staleTable
  else
    match kind, (s.timer i).strategy with
    | .compare, .emulation pin => if pwmMode? (s.slot i).mode then togglePath i pin s else countPath i s
    | .compare, .native => countPath i s
    | .overflow, _ => countPath i s

/-- The timer of an event word, refused where there is none (R91). -/
def withEventTimer (eidx : BitVec 2) (k : TimerId → Result) : Result :=
  match eventTimer? eidx with
  | none => .refused .noSuchTimer
  | some i => k i

/-- EVT.OVF (R196). -/
def execEvtOvf (eidx : BitVec 2) (s : State) : Result :=
  withEventTimer eidx fun i => eventStep i .overflow s

/-- EVT.CMP (R197). -/
def execEvtCmp (eidx : BitVec 2) (s : State) : Result :=
  withEventTimer eidx fun i => eventStep i .compare s

end Sys2Proof.Machine
end

