-- ==== Sys2Proof/Machine/Lifecycle.lean ====
section
/-! DEFINITION. The lifecycle commands: INIT (R110 to R114), DEINIT (R120, R121), ENABLE (R124 to R126), DISABLE (R128,
R129); and a command whose OP is reserved (R88). -/

namespace Sys2Proof.Machine

/-- The arguments of an INIT that pass its checks (R111). -/
structure InitRecord where
  timer     : TimerId
  usage     : IntUsage
  mode      : Mode
  prescaler : Prescaler
deriving DecidableEq, Repr

/-- The argument checks of INIT (R111): a legal index, usage, mode and prescaler and a non-null callback. -/
def initRecord? (idx : BitVec 8) (iu : BitVec 2) (mode pre : BitVec 3) (cb : BitVec 16) : Option InitRecord :=
  match timerOf? idx, usageOf? iu, modeOf? mode, prescalerOf? pre with
  | some i, some u, some m, some p =>
    if cb = 0#16 then none else some { timer := i, usage := u, mode := m, prescaler := p }
  | _, _, _, _ => none

/-- The hardware programming of INIT: the waveform bits, and with usage Interrupt the mode's source and the global enable
(R114). -/
def State.initHardware (s : State) (i : TimerId) (u : IntUsage) (m : Mode) : State :=
  match u with
  | .interrupt => (s.setWgm i (s.cfg.wgm.code m)).enableSource i (sourceOf m)
  | .polling => s.setWgm i (s.cfg.wgm.code m)

/-- INIT (R110): argument checks, lazy initialisation, claim check, hardware programming, slot record. -/
def execInit (idx : BitVec 8) (iu : BitVec 2) (mode pre : BitVec 3) (cb : BitVec 16) (s : State) : Result :=
  match initRecord? idx iu mode pre cb with
  | none => s.returns .unsupportedConfiguration
  | some r =>
    if (s.lazyInit.slot r.timer).claimed then s.lazyInit.returns .alreadyInitialized
    else
      ((s.lazyInit.initHardware r.timer r.usage r.mode).setSlot r.timer
        { idx := r.timer.index, mode := mode, pre := pre, en := false, cb := cb }).returns .success

/-- DEINIT (R120): the slot becomes Unclaimed; no latch and no counter is written (R121). -/
def execDeinit (idx : BitVec 8) (s : State) : Result :=
  withIndex idx s fun i =>
  withClaimed i s ((s.unclaim i).returns .success)

/-- ENABLE (R124): OutOfBoundary on an enabled slot (R125), else the enable action. -/
def execEnable (idx : BitVec 8) (s : State) : Result :=
  withIndex idx s fun i =>
  withClaimed i s <|
    if (s.slot i).en then s.returns .outOfBoundary
    else withPrescaler i s fun p => (s.doEnable i p).returns .success

/-- DISABLE (R128): OutOfBoundary on a disabled slot (R129), else the clock stops and the slot is disabled. -/
def execDisable (idx : BitVec 8) (s : State) : Result :=
  withIndex idx s fun i =>
  withClaimed i s <|
    if (s.slot i).en = false then s.returns .outOfBoundary
    else ((s.setCs i 0b000#3).setEnabled i false).returns .success

/-- A command with OP 6 to 15: OutOfBoundary, no state read or written (R88). -/
def execReserved (s : State) : Result := s.returns .outOfBoundary

end Sys2Proof.Machine
end

