-- ==== Sys2Proof/Machine/Pwm.lean ====
section
/-! DEFINITION. GENPWM: its checks, the arm-write and the start (R176 to R178), the same for both strategies (R174, R175). -/

namespace Sys2Proof.Machine

/-- The arm-write of GENPWM: ON, OFF, OCR <- on, TGL <- 0 (R177). -/
def State.armPwm (s : State) (i : TimerId) (t : Thresholds) : State :=
  (s.setCtr i { s.ctr i with on := BitVec.ofNat 16 t.on, off := BitVec.ofNat 16 t.off, tgl := false }).setOcr i
    (BitVec.ofNat 16 t.on)

/-- GENPWM (R176): index, duty (R170), stale table, Claimed, mode (R178), enabled, prescaler, then the arm-write and the
enable action. -/
def execGenpwm (idx : BitVec 8) (duty : BitVec 8) (s : State) : Result :=
  withIndex idx s fun i =>
  if dutyLegal duty = false then s.returns .invalidArguments
  else withClaimed i s <|
    if pwmMode? (s.slot i).mode = false then s.returns .unsupportedFeature
    else if (s.slot i).en then s.returns .unsupportedFeature
    else withPrescaler i s fun p =>
      ((s.armPwm i (calcPwm duty.toNat (s.timer i).width)).doEnable i p).returns .success

end Sys2Proof.Machine
end

