-- ==== Sys2Proof/Machine/Dispatch.lean ====
section
/-! DEFINITION. The meaning of every operation: one arm per constructor, one direct call each. -/

namespace Sys2Proof.Machine

def exec (i : Instr) (s : State) : Host.Outcome State Fault Refusal :=
  match i with
  | .init idx iu mode pre cb => Sys2Proof.Machine.execInit idx iu mode pre cb s
  | .deinit idx => Sys2Proof.Machine.execDeinit idx s
  | .enable idx => Sys2Proof.Machine.execEnable idx s
  | .disable idx => Sys2Proof.Machine.execDisable idx s
  | .delay idx ms => Sys2Proof.Machine.execDelay idx ms s
  | .genpwm idx duty => Sys2Proof.Machine.execGenpwm idx duty s
  | .evtOvf eidx => Sys2Proof.Machine.execEvtOvf eidx s
  | .evtCmp eidx => Sys2Proof.Machine.execEvtCmp eidx s

end Sys2Proof.Machine
end

