-- ==== Sys2Proof/WellFormed.lean ====
section
/-! DEFINITION. Which operations are well formed. Every field of a command may hold any value (R82 to R87, R92: an illegal
value is answered by a status code, not by the decoding), and an event must name one of the three timers (R90, R91). -/

namespace Sys2Proof

/-- EIDX names a timer: it is 0, 1 or 2 (R90); 3 is not an event (R91). -/
def eidxOk (eidx : BitVec 2) : Bool := eidx != 3#2

/-- The check of an operation's fields. -/
def Instr.wellFormed : Instr → Bool
  | .init _ _ _ _ _ => true
  | .deinit _ => true
  | .enable _ => true
  | .disable _ => true
  | .delay _ _ => true
  | .genpwm _ _ => true
  | .evtOvf eidx => eidxOk eidx
  | .evtCmp eidx => eidxOk eidx

end Sys2Proof
end

