-- ==== Sys2Proof/Decode.lean ====
section
/-! DEFINITION. Decoding of whatever the ports are given (R80 to R93), total and rejecting by name; then the encoder, from
the same field tables; then the decoder as the host asks for it. -/

namespace Sys2Proof

/-- Why a port's input is no word of the block. -/
inductive Reject where
  /-- A command of other than 8 bytes (R65). -/
  | partialCommand
  /-- An event word with EIDX = 3 (R91). -/
  | noSuchTimer
deriving DecidableEq, Repr

/-- What a port's input decodes to: an operation, a RESERVED command (R88), or nothing, by name. -/
inductive Decoded where
  | instr (i : Instr)
  | reserved
  | rejected (r : Reject)
deriving DecidableEq, Repr

/-! ## From bytes to whole words -/

/-- The command word that eight bytes carry: byte k holds bits [8k+7 : 8k] (R64). -/
def commandOfBytes? : List Byte → Option CmdWord
  | [b0, b1, b2, b3, b4, b5, b6, b7] => some (b7 ++ b6 ++ b5 ++ b4 ++ b3 ++ b2 ++ b1 ++ b0)
  | _ => none

/-- The bytes that carry a command word, byte 0 first (R64). -/
def bytesOfCommand (w : CmdWord) : List Byte :=
  [w.extractLsb' 0 8, w.extractLsb' 8 8, w.extractLsb' 16 8, w.extractLsb' 24 8,
   w.extractLsb' 32 8, w.extractLsb' 40 8, w.extractLsb' 48 8, w.extractLsb' 56 8]

/-- The whole word a port was given, or none for a partial (or over-long) command (R65). -/
def PortInput.word? : PortInput → Option PortWord
  | .command bytes => (commandOfBytes? bytes).map .command
  | .event w => some (.event w)

/-- A whole word as its port carries it. -/
def PortWord.toInput : PortWord → PortInput
  | .command w => .command (bytesOfCommand w)
  | .event w => .event w

/-! ## Fields (R80, R82, R84 to R86, R90, R92) -/

def cmdOp (w : CmdWord) : BitVec 4 := w.extractLsb' 0 4
def cmdIdx (w : CmdWord) : BitVec 8 := w.extractLsb' 8 8
def cmdIu (w : CmdWord) : BitVec 2 := w.extractLsb' 16 2
def cmdMode (w : CmdWord) : BitVec 3 := w.extractLsb' 18 3
def cmdPre (w : CmdWord) : BitVec 3 := w.extractLsb' 21 3
def cmdCb (w : CmdWord) : BitVec 16 := w.extractLsb' 24 16
def cmdMs (w : CmdWord) : BitVec 32 := w.extractLsb' 16 32
def cmdDuty (w : CmdWord) : BitVec 8 := w.extractLsb' 16 8
def evtEidx (w : EvtWord) : BitVec 2 := w.extractLsb' 0 2
def evtKind (w : EvtWord) : BitVec 1 := w.extractLsb' 2 1

/-! ## The decoder -/

/-- A command word's operation by OP (R81, R93); none is RESERVED (R88). Bits 7:4 and unnamed operand bits are ignored (R83). -/
def decodeCommand (w : CmdWord) : Option Instr :=
  match (cmdOp w).toNat with
  | 0 => some (.init (cmdIdx w) (cmdIu w) (cmdMode w) (cmdPre w) (cmdCb w))
  | 1 => some (.deinit (cmdIdx w))
  | 2 => some (.enable (cmdIdx w))
  | 3 => some (.disable (cmdIdx w))
  | 4 => some (.delay (cmdIdx w) (cmdMs w))
  | 5 => some (.genpwm (cmdIdx w) (cmdDuty w))
  | _ => none

/-- An event word's operation by KIND (R90, R93); none is the form with EIDX = 3 (R91). Bits 7:3 are ignored. -/
def decodeEvent (w : EvtWord) : Option Instr :=
  if eidxOk (evtEidx w) then
    some (if evtKind w = 0#1 then .evtOvf (evtEidx w) else .evtCmp (evtEidx w))
  else none

/-- Decoding of a whole word: the map of R93 is total. -/
def decodeWord : PortWord → Decoded
  | .command w =>
    match decodeCommand w with
    | some i => .instr i
    | none => .reserved
  | .event w =>
    match decodeEvent w with
    | some i => .instr i
    | none => .rejected .noSuchTimer

/-- Decoding of whatever a port was given. -/
def decode (p : PortInput) : Decoded :=
  match p.word? with
  | some w => decodeWord w
  | none => .rejected .partialCommand

/-! ## The encoder, from the field tables of R80 to R90, every ignored bit 0 (R94) -/

/-- A command word: operands 63:16, IDX 15:8, 7:4 zero, OP 3:0 (R80). -/
def packCommand (operands : BitVec 48) (idx : BitVec 8) (op : BitVec 4) : CmdWord :=
  operands ++ idx ++ 0#4 ++ op

/-- An event word: 7:3 zero, KIND bit 2, EIDX 1:0 (R90). -/
def packEvent (kind : BitVec 1) (eidx : BitVec 2) : EvtWord :=
  0#5 ++ kind ++ eidx

/-- The word of an operation (R81, R84 to R87, R90). -/
def encode : Instr → PortWord
  | .init idx iu mode pre cb => .command (packCommand (0#24 ++ cb ++ pre ++ mode ++ iu) idx 0#4)
  | .deinit idx => .command (packCommand 0#48 idx 1#4)
  | .enable idx => .command (packCommand 0#48 idx 2#4)
  | .disable idx => .command (packCommand 0#48 idx 3#4)
  | .delay idx ms => .command (packCommand (0#16 ++ ms) idx 4#4)
  | .genpwm idx duty => .command (packCommand (0#40 ++ duty) idx 5#4)
  | .evtOvf eidx => .event (packEvent 0#1 eidx)
  | .evtCmp eidx => .event (packEvent 1#1 eidx)

/-! ## The decoder as the host asks for it -/

/-- The port of a word of `nbits` bits given without its port. R89: a command word is 64 bits and an event word 8. The host
may give a command row fewer bits than the command has, so a word of at most 8 bits may also be the low byte of a command
whose other bits are 0: exactly the bare words 1, 2, 3 and 5 of DEINIT, ENABLE, DISABLE and GENPWM are read so, every other
one is an event (DESIGN CHOICE, log 7; no step of the machine depends on it). -/
def tableWordIsEvent (nbits w : Nat) : Bool :=
  decide (nbits ≤ 8) && !(w == 1 || w == 2 || w == 3 || w == 5)

/-- A table word laid out on its port: the bits above `nbits` are 0. -/
def tableWordInput (nbits w : Nat) : PortInput :=
  if tableWordIsEvent nbits w then .event (BitVec.ofNat 8 w) else .command (bytesOfCommand (BitVec.ofNat 64 w))

/-- The instruction this decoder reads from a table word (none where it refuses or the word is RESERVED). -/
def decodeTableWord (nbits w : Nat) : Option Instr :=
  match decode (tableWordInput nbits w) with
  | .instr i => some i
  | .reserved => none
  | .rejected _ => none

end Sys2Proof
end

