-- ==== Sys2Proof/Machine/Ports.lean ====
section
/-! DEFINITION. What a step does before an operation is executed: the parameters are legal (00_scope.md section 4), the next
input is taken (R42, R69), a reset restarts the block (R260), a faulted block takes no further step (R225), a word is decoded
(R93), and an event is one that IE and GIE admit (R230). -/

namespace Sys2Proof.Machine

/-- An event of timer i is admitted: its IE bit and GIE are 1 (R230). -/
def State.admitted (s : State) (i : TimerId) (k : EventKind) : Bool := ieBit (s.latch i).ie k && s.gie

/-- Whether an operation may be presented now: a command always (R249), an event when admitted (R230). -/
def State.admits (s : State) : Instr → Bool
  | .init _ _ _ _ _ => true
  | .deinit _ => true
  | .enable _ => true
  | .disable _ => true
  | .delay _ _ => true
  | .genpwm _ _ => true
  | .evtOvf e => match eventTimer? e with
    | some i => s.admitted i .overflow
    | none => false
  | .evtCmp e => match eventTimer? e with
    | some i => s.admitted i .compare
    | none => false

/-- What the next step does. -/
inductive Action where
  /-- An operation is executed in the state given. -/
  | run (i : Instr) (s : State)
  /-- A RESERVED command is answered in the state given (R88). -/
  | reserved (s : State)
  /-- The step ends in the state given without an operation: a reset, or nothing presented. -/
  | done (s : State)
  /-- A faulted block (R225). -/
  | stop (f : Fault)
  /-- No meaning, by name. -/
  | refuse (r : Refusal)
deriving DecidableEq, Repr

/-- The reason a rejected port input is refused with. -/
def Reject.refusal : Reject → Refusal
  | .partialCommand => .partialCommand
  | .noSuchTimer => .noSuchTimer

/-- A port's input is taken: `rest` is what is presented after it. -/
def present (s : State) (p : PortInput) (rest : List Input) : Action :=
  match decode p with
  | .instr i =>
    if s.admits i then .run i { s with current := p.word?, inbox := rest } else .refuse .eventNotAdmitted
  | .reserved => .reserved { s with current := p.word?, inbox := rest }
  | .rejected r => .refuse (Reject.refusal r)

/-- The next step's action in a block with legal parameters. With nothing presented the block waits (R261, log 2). -/
def takeInput (s : State) : Action :=
  match s.inbox, s.fault with
  | .reset :: rest, _ => .done { State.afterReset s.cfg with inbox := rest }
  | _, some f => .stop f.reason
  | .port p :: rest, none => present s p rest
  | [], none => .done { s with out := Outputs.none }

/-- The next step's action. -/
def nextAction (s : State) : Action :=
  if s.cfg.legal then takeInput s else .refuse .illegalConfig

/-! ## Placing an instruction, for the host -/

/-- The state in which an operation may be presented: for an event, its IE bit and GIE are set (R230); else unchanged. -/
def State.withAdmission (s : State) : Instr → State
  | .init _ _ _ _ _ => s
  | .deinit _ => s
  | .enable _ => s
  | .disable _ => s
  | .delay _ _ => s
  | .genpwm _ _ => s
  | .evtOvf e => match eventTimer? e with
    | some i => s.enableSource i .overflow
    | none => s
  | .evtCmp e => match eventTimer? e with
    | some i => s.enableSource i .compare
    | none => s

/-- The state in which a port's input is the next one presented, and admitted. -/
def State.withInput (s : State) (p : PortInput) : State :=
  match decode p with
  | .instr i => { s.withAdmission i with inbox := .port p :: s.inbox }
  | .reserved => { s with inbox := .port p :: s.inbox }
  | .rejected _ => { s with inbox := .port p :: s.inbox }

end Sys2Proof.Machine
end

