-- ==== Sys2Proof/Machine/Step.lean ====
section
/-! DEFINITION. One step of the block: one word of a port, processed to completion (R42, R62), or one reset (R260). -/

namespace Sys2Proof.Machine

/-- One step. -/
def step (s : State) : Host.Outcome State Fault Refusal :=
  match nextAction s with
  | .run i t => exec i t
  | .reserved t => execReserved t
  | .done t => .next t
  | .stop f => .fault f
  | .refuse r => .refused r

/-- `s` with the table word `w` of `nbits` bits presented next on its port, ahead of what was to come; for an event the
source's IE bit and GIE are set too, since the peripheral presents no other (R230; log 7). -/
def State.withFetchWord (s : State) (nbits w : Nat) : State := s.withInput (tableWordInput nbits w)

end Sys2Proof.Machine
end

