-- ==== Sys2Proof/Safety.lean ====
section
/-! DEFINITION. What counts as a safe run, the invariants that statements are made of, the derived view of a timer (R194),
and executing several operations in a row. -/

namespace Sys2Proof.Machine

/-! ## Safe states -/

/-- A faulted state is never a good end of a run (R17, R225). -/
def State.Safe (s : State) : Prop := s.fault = none

/-- The next input of a step is a reset. -/
def State.resetNext (s : State) : Bool :=
  match s.inbox with
  | .reset :: _ => true
  | .port _ :: _ => false
  | [] => false

/-- The next input of a step is an event. -/
def State.eventNext (s : State) : Bool :=
  match s.inbox with
  | .port (.event _) :: _ => true
  | .port (.command _) :: _ => false
  | .reset :: _ => false
  | [] => false

/-- `s` with status `c` on the command port, no pulse, and nothing else changed. -/
def State.answering (s : State) (c : Status) : State :=
  { s with out := { status := some c, fire := none, toggle := none } }

/-- `s` with FAULT = StaleTable and the word in progress, nothing returned, and nothing else changed (R224). -/
def State.stale (s : State) : State :=
  { s with
    fault := some { reason := .staleTable, word := s.current }
    out := { status := none, fire := none, toggle := none } }

/-! ## Invariants -/

/-- A Claimed slot's fields are valid: its own index, one of the four modes, one of the five prescalers, a callback (R27). -/
def Slot.ValidFor (v : Slot) (i : TimerId) : Prop :=
  v.idx = i.index ∧ v.mode.toNat ≤ 3 ∧ v.pre.toNat ≤ 4 ∧ v.cb ≠ 0#16

/-- Once DBI = 1 every slot is Unclaimed in all five fields or valid in all five (R27). -/
def State.SlotsConsistent (s : State) : Prop :=
  s.dbi = true → ∀ i, s.slots.get i = Slot.unclaimed ∨ (s.slots.get i).ValidFor i

/-- Bits 7:5 of every CTRL are 0 (R34). -/
def State.ReservedZero (s : State) : Prop := ∀ i, (s.latches.get i).ctrl.extractLsb' 5 3 = 0#3

/-- OCR, TLOAD, ON and OFF hold at most MAX(i) (R31, R37, R38), and ON and OFF add up to MAX(i) once a GENPWM has
written them (R172). -/
def State.WithinWidth (s : State) : Prop :=
  ∀ i, (s.latches.get i).ocr.toNat ≤ (s.cfg.timers.get i).width.max ∧
    (s.latches.get i).tload.toNat ≤ (s.cfg.timers.get i).width.max ∧
    ((s.ctrs.get i).on.toNat + (s.ctrs.get i).off.toNat = (s.cfg.timers.get i).width.max ∨
      ((s.ctrs.get i).on = 0#16 ∧ (s.ctrs.get i).off = 0#16))

/-- Until an INIT has set DBI the counters and latches stand at their reset values and GIE is 0 (R112, R261). -/
def State.QuietBeforeInit (s : State) : Prop :=
  s.dbi = false → ∀ i, s.ctrs.get i = Counters.zero ∧ s.latches.get i = Latches.zero ∧ s.gie = false

/-- An enabled slot's clock source is the code of its stored prescaler (R35, R119). -/
def State.ClockFollowsSlot (s : State) : Prop :=
  s.dbi = true → ∀ i, (s.slots.get i).en = true →
    ∃ p : Prescaler, (s.slots.get i).pre = p.code ∧
      (s.latches.get i).ctrl.extractLsb' 0 3 = (s.cfg.timers.get i).cs.code p

/-- FAULT is set only while the table is stale (R224). -/
def State.FaultOnlyStale (s : State) : Prop := s.fault ≠ none → s.dbi = false

/-! ## The derived view of one timer (R194), which no rule reads -/

/-- The phases of R194; Fired is the instant of a Fire pulse and no phase of a state. -/
inductive Phase where
  /-- Overflow or Compare-Match slot, not enabled. -/
  | idle
  /-- Overflow or Compare-Match slot, enabled after a DELAY. -/
  | armed
  /-- PWM slot under the emulation strategy, TGL = 1. -/
  | onPhase
  /-- PWM slot under the emulation strategy, TGL = 0. -/
  | offPhase
deriving DecidableEq, Repr

/-- The phase of a timer whose slot is in Overflow or Compare-Match mode: Idle when S_EN = 0, Armed when S_EN = 1 after a
DELAY. 'After a DELAY' is read as NEED ≠ 0: NEED is 0 after reset, only DELAY writes it, and never 0 (R29, R46, R146). A timer
that ENABLE started and no DELAY armed (R199, R274) is neither Idle nor Armed (DEDUCED, log 10). -/
def State.delayPhase (s : State) (i : TimerId) : Option Phase :=
  if (s.slots.get i).en = false then some .idle
  else if (s.ctrs.get i).need = 0#32 then none
  else some .armed

/-- The phase of a timer whose slot is in a PWM mode under the emulation strategy. -/
def State.togglePhase (s : State) (i : TimerId) : Phase := if (s.ctrs.get i).tgl then .onPhase else .offPhase

/-- The phase of timer i; none where R194 names none (stale, Unclaimed, native PWM, enabled without a DELAY). -/
def State.phase (s : State) (i : TimerId) : Option Phase :=
  if s.dbi = false then none
  else
    match modeOf? (s.slots.get i).mode, (s.cfg.timers.get i).strategy with
    | some .overflow, _ => s.delayPhase i
    | some .compareMatch, _ => s.delayPhase i
    | some .pwm, .emulation _ => some (s.togglePhase i)
    | some .phaseCorrectPwm, .emulation _ => some (s.togglePhase i)
    | some .pwm, .native => none
    | some .phaseCorrectPwm, .native => none
    | none, _ => none

/-! ## Several operations in a row -/

/-- `exec` of each operation in turn, stopping where one stops. -/
def execAll : List Instr → State → Host.Outcome State Fault Refusal
  | [], s => .next s
  | op :: ops, s =>
    match exec op s with
    | .next t => execAll ops t
    | .fault f => .fault f
    | .refused r => .refused r

end Sys2Proof.Machine
end

