-- ==== Sys2Proof/Certificates/Slice0/Obligations.lean ====
section
/-! DEFINITION. The statements about the model, for the provers. Each docstring names the rules of spec/ it speaks of; the
log entries it rests on, where it rests on one, are named too. -/

open Sys2Proof Sys2Proof.Machine

/-! ## Reset -/

/-- R46, R260: in a block with any parameters, after reset DBI, every counter, threshold, phase, latch, IE, GIE are 0 and
FAULT is none; `State.reset` is that state for the default parameters. -/
def Obligations.ResetValues : Prop :=
  (∀ (cfg : Config) (i : TimerId),
    (State.afterReset cfg).dbi = false ∧
    ((State.afterReset cfg).ctrs.get i).need = 0#32 ∧ ((State.afterReset cfg).ctrs.get i).cnt = 0#32 ∧
    ((State.afterReset cfg).ctrs.get i).on = 0#16 ∧ ((State.afterReset cfg).ctrs.get i).off = 0#16 ∧
    ((State.afterReset cfg).ctrs.get i).tgl = false ∧
    ((State.afterReset cfg).latches.get i).ctrl = 0x00#8 ∧ ((State.afterReset cfg).latches.get i).ocr = 0#16 ∧
    ((State.afterReset cfg).latches.get i).tload = 0#16 ∧ ((State.afterReset cfg).latches.get i).ie = 0b00#2 ∧
    (State.afterReset cfg).gie = false ∧ (State.afterReset cfg).fault = none) ∧
  State.reset = State.afterReset Config.default

/-- R260: a reset step, faulted block or not, leaves the state after reset, the parameters and the rest of the input. The
model's own in that state are how a reset is presented and what is still to come (log 2), the empty outputs and word in
progress (log 3), and the zeros in the slot fields, to which R46 and R260 give no value (log 4). -/
def Obligations.ResetStepRestoresReset : Prop :=
  ∀ (s : State) (rest : List Input), s.cfg.legal = true → s.inbox = .reset :: rest →
    step s = .next { State.afterReset s.cfg with inbox := rest }

/-- R26, R41, R225, R260: a step that is no reset never clears DBI, and a faulted block has none. -/
def Obligations.OnlyResetClears : Prop :=
  ∀ s t : State, step s = .next t → s.resetNext = false → (s.dbi = true → t.dbi = true) ∧ s.fault = none

/-! ## Words -/

/-- R80 to R92: every well-formed operation's word, carried on its port, decodes to that operation. -/
def Obligations.EncodeThenDecode : Prop :=
  ∀ i : Instr, i.wellFormed = true → decode (encode i).toInput = .instr i

/-- R81, R82, R84 to R88, R92, R93: the operation and the operands of every command word, the fields as numbers. -/
def Obligations.CommandFieldsOfAWord : Prop :=
  ∀ w : CmdWord,
    let n := w.toNat
    let idx := BitVec.ofNat 8 (n / 2 ^ 8)
    decodeWord (.command w) =
      match n % 2 ^ 4 with
      | 0 => .instr (.init idx (BitVec.ofNat 2 (n / 2 ^ 16)) (BitVec.ofNat 3 (n / 2 ^ 18)) (BitVec.ofNat 3 (n / 2 ^ 21))
              (BitVec.ofNat 16 (n / 2 ^ 24)))
      | 1 => .instr (.deinit idx)
      | 2 => .instr (.enable idx)
      | 3 => .instr (.disable idx)
      | 4 => .instr (.delay idx (BitVec.ofNat 32 (n / 2 ^ 16)))
      | 5 => .instr (.genpwm idx (BitVec.ofNat 8 (n / 2 ^ 16)))
      | _ => .reserved

/-- R90, R91, R93: the operation of every event word. -/
def Obligations.EventFieldsOfAWord : Prop :=
  ∀ w : EvtWord,
    decodeWord (.event w) =
      if w.toNat % 4 = 3 then .rejected .noSuchTimer
      else if w.toNat / 4 % 2 = 0 then .instr (.evtOvf (BitVec.ofNat 2 w.toNat))
      else .instr (.evtCmp (BitVec.ofNat 2 w.toNat))

/-- R83, R87, R90: two words that agree on OP, IDX and the bits of the operation's operands decode alike (a RESERVED command
has none: OP alone decides); the masks hold the named bits of each command (R84 to R87) and of an event (R90). -/
def Obligations.UnnamedBitsIgnored : Prop :=
  (∀ v w : CmdWord, v &&& 0xF#64 = w &&& 0xF#64 →
    (v &&& 0xF#64 = 0#64 → v &&& 0xFFFFFFFF0F#64 = w &&& 0xFFFFFFFF0F#64 →
      decodeWord (.command v) = decodeWord (.command w)) ∧
    (v &&& 0xF#64 = 1#64 ∨ v &&& 0xF#64 = 2#64 ∨ v &&& 0xF#64 = 3#64 → v &&& 0xFF0F#64 = w &&& 0xFF0F#64 →
      decodeWord (.command v) = decodeWord (.command w)) ∧
    (v &&& 0xF#64 = 4#64 → v &&& 0xFFFFFFFFFF0F#64 = w &&& 0xFFFFFFFFFF0F#64 →
      decodeWord (.command v) = decodeWord (.command w)) ∧
    (v &&& 0xF#64 = 5#64 → v &&& 0xFFFF0F#64 = w &&& 0xFFFF0F#64 →
      decodeWord (.command v) = decodeWord (.command w)) ∧
    (6 ≤ (v &&& 0xF#64).toNat → decodeWord (.command v) = decodeWord (.command w))) ∧
  (∀ v w : EvtWord, v &&& 0x07#8 = w &&& 0x07#8 → decodeWord (.event v) = decodeWord (.event w))

/-- R64: eight bytes make one command word, byte k its bits [8k+7 : 8k], and a word's bytes make the word again. -/
def Obligations.BytesAreLittleEndian : Prop :=
  (∀ w : CmdWord, commandOfBytes? (bytesOfCommand w) = some w) ∧
  (∀ bytes : List Byte, bytes.length = 8 →
    ∃ w, commandOfBytes? bytes = some w ∧ ∀ k : Fin 8, bytes[k.val]? = some (w.extractLsb' (8 * k.val) 8))

/-- 95_test_vectors.md section 2.7 (words of R80 to R93): seven words decode as the spec lists them. -/
def Obligations.ListedWordsDecode : Prop :=
  decode (.command [0x00#8, 0x00#8, 0x20#8, 0x01#8, 0#8, 0#8, 0#8, 0#8]) = .instr (.init 0#8 0#2 0#3 1#3 1#16) ∧
  decodeWord (.command 0x0000000000050004#64) = .instr (.delay 0#8 5#32) ∧
  decodeWord (.command 0x0000000000320205#64) = .instr (.genpwm 2#8 50#8) ∧
  decodeWord (.command 0x00000000000001F2#64) = .instr (.enable 1#8) ∧
  decodeWord (.command 0xFFFF000000000103#64) = .instr (.disable 1#8) ∧
  decodeWord (.command 0x0000000000000001#64) = .instr (.deinit 0#8) ∧
  decodeWord (.event 0x06#8) = .instr (.evtCmp 2#2) ∧
  decodeWord (.event 0xF8#8) = .instr (.evtOvf 0#2)

/-! ## Steps -/

/-- R42, R62, R93: where a port's input decodes to an operation that may be presented, the step is that operation's meaning
in the state with the input taken and the word noted (log 2, log 3); the operation is well formed. -/
def Obligations.StepRunsDecodedOperation : Prop :=
  ∀ (s : State) (p : PortInput) (rest : List Input) (i : Instr),
    s.cfg.legal = true → s.fault = none → s.inbox = .port p :: rest → decode p = .instr i → s.admits i = true →
      step s = exec i { s with current := p.word?, inbox := rest } ∧ i.wellFormed = true

/-- R230, R249: every command may be presented in every state; an event of timer i exactly when its IE bit and GIE are 1;
an event that is not admitted is refused by name (that it is refused is the model's, log 6). -/
def Obligations.AdmissionOfEvents : Prop :=
  ∀ s : State,
    (∀ i : TimerId,
      (s.admits (.evtOvf i.eidx) = true ↔ (s.latches.get i).ie.getLsbD 0 = true ∧ s.gie = true) ∧
      (s.admits (.evtCmp i.eidx) = true ↔ (s.latches.get i).ie.getLsbD 1 = true ∧ s.gie = true)) ∧
    (∀ (w : CmdWord) (i : Instr), decodeWord (.command w) = .instr i → s.admits i = true) ∧
    (∀ (p : PortInput) (rest : List Input) (i : Instr), s.cfg.legal = true → s.fault = none →
      s.inbox = .port p :: rest → decode p = .instr i → s.admits i = false → step s = .refused .eventNotAdmitted)

/-- R88: a command with OP in 6 to 15 returns OutOfBoundary (5), reads and writes no state and raises no fault. -/
def Obligations.ReservedCommandAnswersOutOfBoundary : Prop :=
  ∀ (s : State) (w : CmdWord) (rest : List Input),
    s.cfg.legal = true → s.fault = none → s.inbox = .port (.command (bytesOfCommand w)) :: rest → 6 ≤ w.toNat % 16 →
      decodeWord (.command w) = .reserved ∧
      step s = .next ({ s with current := some (.command w), inbox := rest }.answering .outOfBoundary) ∧
      Status.outOfBoundary.code = 5#8

/-- R91: an event word with EIDX = 3 is refused and the block takes no step on it; so are the two operations. -/
def Obligations.EventOfNoTimerRefused : Prop :=
  (∀ (s : State) (w : EvtWord) (rest : List Input),
    s.cfg.legal = true → s.fault = none → s.inbox = .port (.event w) :: rest → w.extractLsb' 0 2 = 3#2 →
      step s = .refused .noSuchTimer) ∧
  (∀ s : State, exec (.evtOvf 3#2) s = .refused .noSuchTimer ∧ exec (.evtCmp 3#2) s = .refused .noSuchTimer)

/-- R65: a partial command word is refused and the block takes no step on it. -/
def Obligations.PartialCommandRefused : Prop :=
  ∀ (s : State) (bytes : List Byte) (rest : List Input),
    s.cfg.legal = true → s.fault = none → s.inbox = .port (.command bytes) :: rest → bytes.length < 8 →
      step s = .refused .partialCommand

/-- R225: a faulted block takes no further step until a reset, and is not safe. -/
def Obligations.FaultedBlockStops : Prop :=
  ∀ (s : State) (f : FaultRecord), s.cfg.legal = true → s.fault = some f →
    ¬s.Safe ∧ (s.resetNext = false → step s = .fault f.reason)

/-- R11, R13 and 00_scope.md section 4: which parameters are legal, and that a block built with others is refused. -/
def Obligations.IllegalParametersRefused : Prop :=
  (∀ c : Config, c.legal = true ↔
    (1000 ≤ c.fcpu ∧
      (∀ (i : TimerId) (p : Prescaler), 1 ≤ (p.div * 10 ^ 6 / (c.fcpu / 10 ^ 3)) * 2 ^ (c.timers.get i).width.bits / 10 ^ 3) ∧
      (∀ (i : TimerId) (p : Prescaler), (c.timers.get i).cs.code p ≠ 0b000#3) ∧
      (∀ (i : TimerId) (p q : Prescaler), (c.timers.get i).cs.code p = (c.timers.get i).cs.code q → p = q) ∧
      (∀ m n : Mode, c.wgm.code m = c.wgm.code n → m = n))) ∧
  (∀ s : State, s.cfg.legal = false → step s = .refused .illegalConfig)

/-- R11: for W = 8 and P = 1 the overflow period is at least 1 exactly when floor(F_CPU / 1000) ≤ 250000. -/
def Obligations.FastestClock : Prop :=
  ∀ fcpu : Nat, 1000 ≤ fcpu → (1 ≤ overflowTime fcpu .div1 .w8 ↔ fcpu / 1000 ≤ 250000)

/-- R14, 00_scope.md section 4: no step changes the parameters. -/
def Obligations.ParametersFixed : Prop :=
  ∀ s t : State, step s = .next t → t.cfg = s.cfg

/-! ## Guards shared by the commands -/

/-- R116: DEINIT, ENABLE, DISABLE, DELAY and GENPWM of an index that names no timer return InvalidArguments, whatever DBI,
and change nothing. -/
def Obligations.IndexGuard : Prop :=
  ∀ (s : State) (idx : BitVec 8) (ms : BitVec 32) (duty : BitVec 8), 3 ≤ idx.toNat →
    exec (.deinit idx) s = .next (s.answering .invalidArguments) ∧
    exec (.enable idx) s = .next (s.answering .invalidArguments) ∧
    exec (.disable idx) s = .next (s.answering .invalidArguments) ∧
    exec (.delay idx ms) s = .next (s.answering .invalidArguments) ∧
    exec (.genpwm idx duty) s = .next (s.answering .invalidArguments)

/-- R117, R224: with legal operands and DBI = 0 the five commands set FAULT to StaleTable with the offending word, return
nothing and change nothing else (that the step which raises it answers a next state is the model's, log 3). -/
def Obligations.StaleTableFaults : Prop :=
  ∀ (s : State) (i : TimerId) (ms : BitVec 32) (duty : BitVec 8),
    s.dbi = false → ms ≠ 0#32 → 1 ≤ duty.toNat → duty.toNat ≤ 99 →
      exec (.deinit i.index) s = .next s.stale ∧ exec (.enable i.index) s = .next s.stale ∧
      exec (.disable i.index) s = .next s.stale ∧ exec (.delay i.index ms) s = .next s.stale ∧
      exec (.genpwm i.index duty) s = .next s.stale

/-- R117: with legal operands on an Unclaimed slot the five commands return NotInitialized and change nothing. -/
def Obligations.UnclaimedSlotNotInitialized : Prop :=
  ∀ (s : State) (i : TimerId) (ms : BitVec 32) (duty : BitVec 8),
    s.dbi = true → s.slots.get i = Slot.unclaimed → ms ≠ 0#32 → 1 ≤ duty.toNat → duty.toNat ≤ 99 →
      exec (.deinit i.index) s = .next (s.answering .notInitialized) ∧
      exec (.enable i.index) s = .next (s.answering .notInitialized) ∧
      exec (.disable i.index) s = .next (s.answering .notInitialized) ∧
      exec (.delay i.index ms) s = .next (s.answering .notInitialized) ∧
      exec (.genpwm i.index duty) s = .next (s.answering .notInitialized)

/-- R27: the Unclaimed values, and the Claimed test: a slot is Claimed unless all five fields have them. -/
def Obligations.ClaimedTest : Prop :=
  Slot.unclaimed = { idx := 0xFF#8, mode := 7#3, pre := 7#3, en := false, cb := 0#16 } ∧
  ∀ v : Slot, v.claimed = false ↔ v = Slot.unclaimed

/-- R126: a stored prescaler that is none of the five makes ENABLE, DELAY and GENPWM return OutOfBoundary and write nothing
(in states that no run reaches, R27). -/
def Obligations.InvalidStoredPrescaler : Prop :=
  ∀ (s : State) (i : TimerId) (ms : BitVec 32) (duty : BitVec 8),
    s.dbi = true → s.slots.get i ≠ Slot.unclaimed → (s.slots.get i).en = false → 5 ≤ (s.slots.get i).pre.toNat →
      exec (.enable i.index) s = .next (s.answering .outOfBoundary) ∧
      ((s.slots.get i).mode.toNat ≤ 1 → ms ≠ 0#32 →
        exec (.delay i.index ms) s = .next (s.answering .outOfBoundary)) ∧
      (2 ≤ (s.slots.get i).mode.toNat → (s.slots.get i).mode.toNat ≤ 3 → 1 ≤ duty.toNat → duty.toNat ≤ 99 →
        exec (.genpwm i.index duty) s = .next (s.answering .outOfBoundary))

/-! ## Lifecycle -/

/-- R111: an INIT with an illegal index, usage, mode or prescaler or a null callback returns UnsupportedConfiguration, in
any state, and writes nothing. -/
def Obligations.InitRefusesIllegalArguments : Prop :=
  ∀ (s : State) (idx : BitVec 8) (iu : BitVec 2) (mode pre : BitVec 3) (cb : BitVec 16),
    (3 ≤ idx.toNat ∨ 2 ≤ iu.toNat ∨ 4 ≤ mode.toNat ∨ 5 ≤ pre.toNat ∨ cb = 0#16) →
      exec (.init idx iu mode pre cb) s = .next (s.answering .unsupportedConfiguration)

/-- R113: an INIT with legal arguments on a Claimed slot returns AlreadyInitialized and changes nothing. -/
def Obligations.InitOfClaimedSlot : Prop :=
  ∀ (s : State) (i : TimerId) (u : IntUsage) (m : Mode) (p : Prescaler) (cb : BitVec 16),
    s.dbi = true → s.slots.get i ≠ Slot.unclaimed → cb ≠ 0#16 →
      exec (.init i.index u.code m.code p.code cb) s = .next (s.answering .alreadyInitialized)

/-- R110, R112, R113, R114: an INIT with legal arguments on a slot that is Unclaimed, or of a stale table, succeeds: the
table is initialised first where it was stale; the slot holds the record, disabled; CTRL.WGM is the mode's code, CS and bits
7:5 kept; with usage Interrupt the mode's IE bit and GIE are set, else neither; nothing else changes. -/
def Obligations.InitClaimsSlot : Prop :=
  ∀ (s : State) (i : TimerId) (u : IntUsage) (m : Mode) (p : Prescaler) (cb : BitVec 16),
    (s.dbi = true → s.slots.get i = Slot.unclaimed) → cb ≠ 0#16 →
      ∃ ctrl : BitVec 8,
        exec (.init i.index u.code m.code p.code cb) s = .next
          { s.answering .success with
            dbi := true
            slots :=
              (if s.dbi then s.slots else { t0 := Slot.unclaimed, t1 := Slot.unclaimed, t2 := Slot.unclaimed }).set i
                { idx := i.index, mode := m.code, pre := p.code, en := false, cb := cb }
            latches := s.latches.set i
              { s.latches.get i with
                ctrl := ctrl
                ie :=
                  if u = .interrupt then (s.latches.get i).ie ||| (if m = .overflow then 0b01#2 else 0b10#2)
                  else (s.latches.get i).ie }
            gie := s.gie || decide (u = .interrupt) } ∧
        ctrl.extractLsb' 0 3 = (s.latches.get i).ctrl.extractLsb' 0 3 ∧
        ctrl.extractLsb' 3 2 = s.cfg.wgm.code m ∧
        ctrl.extractLsb' 5 3 = (s.latches.get i).ctrl.extractLsb' 5 3

/-- R120, R121: DEINIT of a Claimed slot succeeds and writes the five fields of the slot, no latch and no counter. -/
def Obligations.DeinitReleasesSlot : Prop :=
  ∀ (s : State) (i : TimerId), s.dbi = true → s.slots.get i ≠ Slot.unclaimed →
    exec (.deinit i.index) s = .next
      { s.answering .success with
        slots := s.slots.set i { idx := 0xFF#8, mode := 7#3, pre := 7#3, en := false, cb := 0#16 } }

/-- R119, R124: ENABLE of a disabled Claimed slot succeeds: CTRL.CS is the code of the stored prescaler, CTRL's other bits
are kept, S_EN is 1, and nothing else changes. -/
def Obligations.EnableStartsTimer : Prop :=
  ∀ (s : State) (i : TimerId) (p : Prescaler),
    s.dbi = true → s.slots.get i ≠ Slot.unclaimed → (s.slots.get i).en = false → (s.slots.get i).pre = p.code →
      ∃ ctrl : BitVec 8,
        exec (.enable i.index) s = .next
          { s.answering .success with
            slots := s.slots.set i { s.slots.get i with en := true }
            latches := s.latches.set i { s.latches.get i with ctrl := ctrl } } ∧
        ctrl.extractLsb' 0 3 = (s.cfg.timers.get i).cs.code p ∧
        ctrl.extractLsb' 3 5 = (s.latches.get i).ctrl.extractLsb' 3 5

/-- R125: ENABLE of an enabled slot returns OutOfBoundary and writes nothing; so does a second ENABLE after a successful
one. -/
def Obligations.EnableTwice : Prop :=
  (∀ (s : State) (i : TimerId), s.dbi = true → (s.slots.get i).en = true →
    exec (.enable i.index) s = .next (s.answering .outOfBoundary)) ∧
  (∀ (s t : State) (i : TimerId), exec (.enable i.index) s = .next t → t.out.status = some .success →
    exec (.enable i.index) t = .next (t.answering .outOfBoundary))

/-- R128: DISABLE of an enabled slot succeeds: CTRL.CS is 0, CTRL's other bits are kept, S_EN is 0, and nothing else changes;
no counter is cleared. -/
def Obligations.DisableStopsTimer : Prop :=
  ∀ (s : State) (i : TimerId), s.dbi = true → (s.slots.get i).en = true →
    ∃ ctrl : BitVec 8,
      exec (.disable i.index) s = .next
        { s.answering .success with
          slots := s.slots.set i { s.slots.get i with en := false }
          latches := s.latches.set i { s.latches.get i with ctrl := ctrl } } ∧
      ctrl.extractLsb' 0 3 = 0b000#3 ∧
      ctrl.extractLsb' 3 5 = (s.latches.get i).ctrl.extractLsb' 3 5

/-- R129: DISABLE of a disabled Claimed slot returns OutOfBoundary and writes nothing. -/
def Obligations.DisableTwice : Prop :=
  ∀ (s : State) (i : TimerId), s.dbi = true → s.slots.get i ≠ Slot.unclaimed → (s.slots.get i).en = false →
    exec (.disable i.index) s = .next (s.answering .outOfBoundary)

/-- R129, R271: DISABLE and then ENABLE of a running slot both succeed and leave slots, counters and latches as they were:
the count resumes stale. The premise ClockFollowsSlot is the invariant RunningClockFollowsSlot. -/
def Obligations.DisableThenEnableResumes : Prop :=
  ∀ (s : State) (i : TimerId), s.ClockFollowsSlot → s.dbi = true → (s.slots.get i).en = true →
    ∃ t, exec (.disable i.index) s = .next t ∧ t.ctrs = s.ctrs ∧ t.out.status = some .success ∧
      exec (.enable i.index) t = .next (s.answering .success)

/-! ## DELAY -/

/-- R140 to R145, R150, R152: DELAY on a disabled Overflow or Compare-Match slot, with ms ≥ 1 and a count that fits 32 bits,
succeeds: the reload goes to TLOAD (Overflow) or OCR (Compare-Match), NEED is the count, CNT is cleared where
ARM_RESETS_COUNTER, CTRL.CS is the prescaler's code with the other bits kept, S_EN is 1, and nothing else changes. -/
def Obligations.DelayArmsTimer : Prop :=
  ∀ (s : State) (i : TimerId) (p : Prescaler) (ms : BitVec 32),
    let W := (s.cfg.timers.get i).width.bits
    let T := (p.div * 10 ^ 6 / (s.cfg.fcpu / 10 ^ 3)) * 2 ^ W / 10 ^ 3
    let N := ms.toNat * 10 ^ 3
    let count := N / T + (if N % T ≠ 0 then 1 else 0)
    let reload := 2 ^ W - 1 - N % T * 2 ^ W / T
    s.cfg.legal = true → s.dbi = true → (s.slots.get i).mode.toNat ≤ 1 → (s.slots.get i).en = false →
    (s.slots.get i).pre = p.code → 1 ≤ ms.toNat → count ≤ 2 ^ 32 - 1 →
      ∃ ctrl : BitVec 8,
        exec (.delay i.index ms) s = .next
          { s.answering .success with
            slots := s.slots.set i { s.slots.get i with en := true }
            ctrs := s.ctrs.set i
              { s.ctrs.get i with
                need := BitVec.ofNat 32 count
                cnt := if s.cfg.armResetsCounter then 0#32 else (s.ctrs.get i).cnt }
            latches := s.latches.set i
              { s.latches.get i with
                ctrl := ctrl
                tload := if (s.slots.get i).mode = 0#3 then BitVec.ofNat 16 reload else (s.latches.get i).tload
                ocr := if (s.slots.get i).mode = 0#3 then (s.latches.get i).ocr else BitVec.ofNat 16 reload } } ∧
        ctrl.extractLsb' 0 3 = (s.cfg.timers.get i).cs.code p ∧
        ctrl.extractLsb' 3 5 = (s.latches.get i).ctrl.extractLsb' 3 5

/-- R147, R150, R151: the failing DELAYs of a legal index, in their order, each changing nothing: ms = 0 in any state; then,
on a Claimed slot of an initialised table, a PWM mode or an enabled slot; then a count over 2^32 - 1. -/
def Obligations.DelayRejections : Prop :=
  ∀ (s : State) (i : TimerId) (ms : BitVec 32),
    exec (.delay i.index 0#32) s = .next (s.answering .invalidArguments) ∧
    (ms ≠ 0#32 → s.dbi = true → s.slots.get i ≠ Slot.unclaimed →
      (2 ≤ (s.slots.get i).mode.toNat ∨ (s.slots.get i).en = true →
        exec (.delay i.index ms) s = .next (s.answering .unsupportedFeature)) ∧
      (∀ p : Prescaler, s.cfg.legal = true → (s.slots.get i).mode.toNat ≤ 1 → (s.slots.get i).en = false →
        (s.slots.get i).pre = p.code →
        2 ^ 32 - 1 < (calcDelay s.cfg.fcpu p (s.cfg.timers.get i).width ms.toNat).count →
        exec (.delay i.index ms) s = .next (s.answering .invalidArguments)))

/-- R146: for ms ≥ 1 and an overflow period of at least 1, the count is at least 1 and is the ceiling of N / T; the remainder in
ticks is at most MAX and adds up to MAX with the reload, which is therefore at most MAX, and is MAX exactly where the
remainder in ticks is 0, in particular where the remainder is. -/
def Obligations.DelayPlanRanges : Prop :=
  ∀ (fcpu : Nat) (p : Prescaler) (w : Width) (ms : Nat), 1 ≤ ms → 1 ≤ overflowTime fcpu p w →
    let T := overflowTime fcpu p w
    let plan := calcDelay fcpu p w ms
    let remTicks := ms * 1000 % T * 2 ^ w.bits / T
    1 ≤ plan.count ∧ ms * 1000 ≤ plan.count * T ∧ (plan.count - 1) * T < ms * 1000 ∧
    remTicks ≤ 2 ^ w.bits - 1 ∧ plan.reload + remTicks = 2 ^ w.bits - 1 ∧ plan.reload ≤ 2 ^ w.bits - 1 ∧
    (ms * 1000 % T = 0 → plan.reload = 2 ^ w.bits - 1) ∧ (plan.reload = 2 ^ w.bits - 1 ↔ remTicks = 0)

/-- R147: the count fits 32 bits exactly for ms ≤ floor((2^32 - 1) * T / 1000), hence for every 32-bit ms once T ≥ 1000. -/
def Obligations.DelayAcceptedRange : Prop :=
  ∀ (fcpu : Nat) (p : Prescaler) (w : Width) (ms : Nat), 1 ≤ ms → 1 ≤ overflowTime fcpu p w →
    ((calcDelay fcpu p w ms).count ≤ 2 ^ 32 - 1 ↔ ms ≤ (2 ^ 32 - 1) * overflowTime fcpu p w / 1000) ∧
    (1000 ≤ overflowTime fcpu p w → ms ≤ 2 ^ 32 - 1 → (calcDelay fcpu p w ms).count ≤ 2 ^ 32 - 1)

/-! ## GENPWM -/

/-- R119, R171, R176, R177: GENPWM with duty 1 to 99 on a disabled PWM or Phase-Correct-PWM slot succeeds: ON, OFF and OCR
take the thresholds, TGL is 0, CTRL.CS is the prescaler's code with the other bits kept, S_EN is 1, and nothing else
changes. -/
def Obligations.GenpwmArmsTimer : Prop :=
  ∀ (s : State) (i : TimerId) (p : Prescaler) (duty : BitVec 8),
    let MAX := 2 ^ (s.cfg.timers.get i).width.bits - 1
    let on := duty.toNat * MAX / 100
    s.dbi = true → 2 ≤ (s.slots.get i).mode.toNat → (s.slots.get i).mode.toNat ≤ 3 → (s.slots.get i).en = false →
    (s.slots.get i).pre = p.code → 1 ≤ duty.toNat → duty.toNat ≤ 99 →
      ∃ ctrl : BitVec 8,
        exec (.genpwm i.index duty) s = .next
          { s.answering .success with
            slots := s.slots.set i { s.slots.get i with en := true }
            ctrs := s.ctrs.set i
              { s.ctrs.get i with on := BitVec.ofNat 16 on, off := BitVec.ofNat 16 (MAX - on), tgl := false }
            latches := s.latches.set i { s.latches.get i with ctrl := ctrl, ocr := BitVec.ofNat 16 on } } ∧
        ctrl.extractLsb' 0 3 = (s.cfg.timers.get i).cs.code p ∧
        ctrl.extractLsb' 3 5 = (s.latches.get i).ctrl.extractLsb' 3 5

/-- R170, R176, R178: the failing GENPWMs of a legal index, each changing nothing: a duty of 0 or of 100 and more in any
state; on a Claimed slot of an initialised table, a mode other than PWM and Phase-Correct-PWM, or an enabled slot. -/
def Obligations.GenpwmRejections : Prop :=
  ∀ (s : State) (i : TimerId) (duty : BitVec 8),
    (duty.toNat = 0 ∨ 100 ≤ duty.toNat → exec (.genpwm i.index duty) s = .next (s.answering .invalidArguments)) ∧
    (1 ≤ duty.toNat → duty.toNat ≤ 99 → s.dbi = true → s.slots.get i ≠ Slot.unclaimed →
      ((s.slots.get i).mode.toNat ≤ 1 ∨ 4 ≤ (s.slots.get i).mode.toNat ∨ (s.slots.get i).en = true) →
        exec (.genpwm i.index duty) s = .next (s.answering .unsupportedFeature))

/-- R172: for a legal duty the thresholds add up to MAX, stay in the ranges the spec gives for 8 and for 16 bits, and ON does
not fall as the duty rises. -/
def Obligations.ThresholdRanges : Prop :=
  ∀ duty : Nat, 1 ≤ duty → duty ≤ 99 →
    (∀ w : Width, (calcPwm duty w).on + (calcPwm duty w).off = 2 ^ w.bits - 1 ∧
      ∀ duty' : Nat, duty ≤ duty' → (calcPwm duty w).on ≤ (calcPwm duty' w).on) ∧
    2 ≤ (calcPwm duty .w8).on ∧ (calcPwm duty .w8).on ≤ 252 ∧ 3 ≤ (calcPwm duty .w8).off ∧
    (calcPwm duty .w8).off ≤ 253 ∧ 655 ≤ (calcPwm duty .w16).on ∧ (calcPwm duty .w16).on ≤ 64879 ∧
    656 ≤ (calcPwm duty .w16).off ∧ (calcPwm duty .w16).off ≤ 64880

/-! ## Events -/

/-- R190, R191, R192, R193, R196: an overflow event of timer i counts modulo 2^32; on reaching NEED the counter is cleared and
Fire(S_CB, i) is emitted unless the handle is null; no status, and nothing else changes. -/
def Obligations.OverflowEventCounts : Prop :=
  ∀ (s : State) (i : TimerId), s.dbi = true →
    let next := BitVec.ofNat 32 ((s.ctrs.get i).cnt.toNat + 1)
    exec (.evtOvf i.eidx) s = .next
      { s with
        ctrs := s.ctrs.set i { s.ctrs.get i with cnt := if next = (s.ctrs.get i).need then 0#32 else next }
        out :=
          { status := none
            fire :=
              if next = (s.ctrs.get i).need ∧ (s.slots.get i).cb ≠ 0#16 then
                some { handle := (s.slots.get i).cb, timer := i }
              else none
            toggle := none } }

/-- R190, R191, R192, R193, R197: a compare event of a timer under the native strategy, or of a slot in no PWM mode, counts as
an overflow event does. -/
def Obligations.CompareEventCounts : Prop :=
  ∀ (s : State) (i : TimerId), s.dbi = true →
    ((s.cfg.timers.get i).strategy = .native ∨ (s.slots.get i).mode.toNat ≤ 1 ∨ 4 ≤ (s.slots.get i).mode.toNat) →
    let next := BitVec.ofNat 32 ((s.ctrs.get i).cnt.toNat + 1)
    exec (.evtCmp i.eidx) s = .next
      { s with
        ctrs := s.ctrs.set i { s.ctrs.get i with cnt := if next = (s.ctrs.get i).need then 0#32 else next }
        out :=
          { status := none
            fire :=
              if next = (s.ctrs.get i).need ∧ (s.slots.get i).cb ≠ 0#16 then
                some { handle := (s.slots.get i).cb, timer := i }
              else none
            toggle := none } }

/-- R191, R195, R197: a compare event of an emulated PWM slot emits Toggle(PWM_PIN), writes OFF (TGL = 0) or ON (TGL = 1) to
OCR and inverts TGL; no status, no Fire, and nothing else changes. The premise WithinWidth (an invariant, LatchesWithinWidth)
says that the thresholds fit the latch. -/
def Obligations.CompareEventToggles : Prop :=
  ∀ (s : State) (i : TimerId) (pin : GpioPin), s.WithinWidth → s.dbi = true →
    (s.cfg.timers.get i).strategy = .emulation pin → 2 ≤ (s.slots.get i).mode.toNat → (s.slots.get i).mode.toNat ≤ 3 →
    exec (.evtCmp i.eidx) s = .next
      { s with
        ctrs := s.ctrs.set i { s.ctrs.get i with tgl := !(s.ctrs.get i).tgl }
        latches := s.latches.set i
          { s.latches.get i with ocr := if (s.ctrs.get i).tgl then (s.ctrs.get i).on else (s.ctrs.get i).off }
        out := { status := none, fire := none, toggle := some pin } }

/-- R190: an event with DBI = 0 sets FAULT to StaleTable (that the operation which raises it answers a next state is the
model's, log 3); and (R190's inference) from a state that meets the invariant QuietBeforeInit no admitted event does: a step
on an event never leaves FAULT set. -/
def Obligations.EventsFaultOnlyUnadmitted : Prop :=
  (∀ (s : State) (i : TimerId), s.dbi = false →
    exec (.evtOvf i.eidx) s = .next s.stale ∧ exec (.evtCmp i.eidx) s = .next s.stale) ∧
  (∀ s t : State, s.QuietBeforeInit → s.eventNext = true → step s = .next t → t.fault = none)

/-- R198: an event step returns no status, changes no slot field, and writes no CTRL, TLOAD, IE, GIE or DBI, and nothing of
the block but FAULT (R190), CNT, TGL, OCR of its timer. -/
def Obligations.EventsTouchNoConfiguration : Prop :=
  ∀ (op : Instr) (s t : State), (∃ e, op = .evtOvf e ∨ op = .evtCmp e) → exec op s = .next t →
    t.out.status = none ∧ t.slots = s.slots ∧ t.dbi = s.dbi ∧ t.gie = s.gie ∧ t.cfg = s.cfg ∧
    ∀ i, (t.latches.get i).ctrl = (s.latches.get i).ctrl ∧ (t.latches.get i).ie = (s.latches.get i).ie ∧
      (t.latches.get i).tload = (s.latches.get i).tload ∧ (t.ctrs.get i).need = (s.ctrs.get i).need ∧
      (t.ctrs.get i).on = (s.ctrs.get i).on ∧ (t.ctrs.get i).off = (s.ctrs.get i).off

/-- R191, R192, R199: from CNT = 0, after n events of the timer on the count path (overflow events in any mix with, under the
native strategy or for a slot in no PWM mode, compare events) CNT is n modulo the period, and the n-th event emits Fire exactly
when n is a multiple of it (and the handle is not null); the period is NEED, or 2^32 where NEED = 0. -/
def Obligations.FirePeriod : Prop :=
  ∀ (s : State) (i : TimerId) (events : List Instr), s.dbi = true → (s.ctrs.get i).cnt = 0#32 → events ≠ [] →
    (∀ op ∈ events, op = .evtOvf i.eidx ∨
      (op = .evtCmp i.eidx ∧
        ((s.cfg.timers.get i).strategy = .native ∨ (s.slots.get i).mode.toNat ≤ 1 ∨ 4 ≤ (s.slots.get i).mode.toNat))) →
    let n := events.length
    let period := if (s.ctrs.get i).need = 0#32 then 2 ^ 32 else (s.ctrs.get i).need.toNat
    ∃ t, execAll events s = .next t ∧ (t.ctrs.get i).cnt.toNat = n % period ∧
      t.out.fire =
        if n % period = 0 ∧ (s.slots.get i).cb ≠ 0#16 then some { handle := (s.slots.get i).cb, timer := i } else none

/-- R153: after a successful DELAY that cleared CNT, in either of its modes, the n-th event of the timer, overflow or compare
in any mix, emits Fire exactly when n is a multiple of the count of R143, for a slot with a callback. -/
def Obligations.DelayFiresEveryCountEvents : Prop :=
  ∀ (s t : State) (i : TimerId) (p : Prescaler) (ms : BitVec 32) (events : List Instr),
    s.cfg.legal = true → s.cfg.armResetsCounter = true → (s.slots.get i).pre = p.code → (s.slots.get i).cb ≠ 0#16 →
    exec (.delay i.index ms) s = .next t → t.out.status = some .success → events ≠ [] →
    (∀ op ∈ events, op = .evtOvf i.eidx ∨ op = .evtCmp i.eidx) →
    let T := overflowTime s.cfg.fcpu p (s.cfg.timers.get i).width
    let N := ms.toNat * 1000
    let count := N / T + (if N % T ≠ 0 then 1 else 0)
    ∃ u, execAll events t = .next u ∧
      u.out.fire = if events.length % count = 0 then some { handle := (s.slots.get i).cb, timer := i } else none

/-! ## Invariants of every step -/

/-- R27: once DBI = 1 every slot is Unclaimed in all fields or valid in all fields, and every step keeps it so. -/
def Obligations.SlotTableStaysConsistent : Prop :=
  ∀ s t : State, s.SlotsConsistent → step s = .next t → t.SlotsConsistent

/-- R31, R34, R37, R38, R172: every step keeps CTRL's bits 7:5 at 0 and OCR, TLOAD, ON, OFF within the timer's width. -/
def Obligations.LatchesWithinWidth : Prop :=
  ∀ s t : State, s.ReservedZero ∧ s.WithinWidth → step s = .next t → t.ReservedZero ∧ t.WithinWidth

/-- R112, R224, R261: every step keeps it so that before the first passing INIT nothing but FAULT has left its reset value,
and that FAULT is set only then. -/
def Obligations.QuietUntilFirstInit : Prop :=
  ∀ s t : State, s.QuietBeforeInit ∧ s.FaultOnlyStale → step s = .next t → t.QuietBeforeInit ∧ t.FaultOnlyStale

/-- R35, R119: every step keeps it so that an enabled slot's clock source is its stored prescaler's code. -/
def Obligations.RunningClockFollowsSlot : Prop :=
  ∀ s t : State, s.ClockFollowsSlot → step s = .next t → t.ClockFollowsSlot

/-- The invariants above hold after reset, for any parameters. -/
def Obligations.InvariantsHoldAtReset : Prop :=
  ∀ cfg : Config,
    (State.afterReset cfg).SlotsConsistent ∧ (State.afterReset cfg).ReservedZero ∧ (State.afterReset cfg).WithinWidth ∧
    (State.afterReset cfg).QuietBeforeInit ∧ (State.afterReset cfg).FaultOnlyStale ∧
    (State.afterReset cfg).ClockFollowsSlot ∧ (State.afterReset cfg).Safe

/-! ## Rules about the whole block -/

/-- R28: a Claimed slot keeps its index and its callback under every operation, but that DEINIT of its index makes it
Unclaimed. -/
def Obligations.ClaimedSlotKeepsIdentity : Prop :=
  ∀ (op : Instr) (s t : State) (i : TimerId), s.dbi = true → s.slots.get i ≠ Slot.unclaimed → exec op s = .next t →
    ((t.slots.get i).idx = (s.slots.get i).idx ∧ (t.slots.get i).cb = (s.slots.get i).cb) ∨
      (op = .deinit i.index ∧ t.slots.get i = Slot.unclaimed)

/-- R36, R39, R40: no operation but INIT writes WGM, IE or GIE, and INIT clears neither an IE bit nor GIE. -/
def Obligations.OnlyInitConfiguresSources : Prop :=
  ∀ (op : Instr) (s t : State) (i : TimerId), exec op s = .next t →
    (s.gie = true → t.gie = true) ∧ (∀ k : EventKind, ieBit (s.latches.get i).ie k = true → ieBit (t.latches.get i).ie k = true) ∧
    ((∀ idx iu mode pre cb, op ≠ .init idx iu mode pre cb) →
      t.gie = s.gie ∧ (t.latches.get i).ie = (s.latches.get i).ie ∧
      (t.latches.get i).ctrl.extractLsb' 3 2 = (s.latches.get i).ctrl.extractLsb' 3 2)

/-- R29, R30, R31, R32, R37, R38: which operations write NEED, CNT, ON, OFF, TGL, OCR and TLOAD. -/
def Obligations.WritersOfCounters : Prop :=
  ∀ (op : Instr) (s t : State) (i : TimerId), exec op s = .next t →
    let isDelay := ∃ idx ms, op = .delay idx ms
    let isGenpwm := ∃ idx duty, op = .genpwm idx duty
    let isEvent := ∃ e, op = .evtOvf e ∨ op = .evtCmp e
    (¬isDelay → (t.ctrs.get i).need = (s.ctrs.get i).need ∧ (t.latches.get i).tload = (s.latches.get i).tload) ∧
    (¬isDelay ∧ ¬isEvent → (t.ctrs.get i).cnt = (s.ctrs.get i).cnt) ∧
    (¬isGenpwm → (t.ctrs.get i).on = (s.ctrs.get i).on ∧ (t.ctrs.get i).off = (s.ctrs.get i).off) ∧
    (¬isGenpwm ∧ ¬isEvent → (t.ctrs.get i).tgl = (s.ctrs.get i).tgl) ∧
    (¬isDelay ∧ ¬isGenpwm ∧ ¬isEvent → (t.latches.get i).ocr = (s.latches.get i).ocr)

/-- R221: an operation that returns a code other than Success has written nothing. (An INIT that finds the table stale
initialises it first, and then finds every slot Unclaimed, so it succeeds: R112, R113.) -/
def Obligations.FailingCommandWritesNothing : Prop :=
  ∀ (op : Instr) (s t : State) (c : Status), exec op s = .next t → t.out.status = some c → c ≠ .success →
    t = s.answering c

/-- R220: each command returns exactly one code, of the codes that the table gives it, unless it raises the fault; the
numbers of the codes are the table's. -/
def Obligations.StatusCodesOfCommands : Prop :=
  (∀ (op : Instr) (s t : State), s.fault = none → exec op s = .next t →
    let allowed : List Status :=
      match op with
      | .init _ _ _ _ _ => [.success, .unsupportedConfiguration, .alreadyInitialized]
      | .deinit _ => [.success, .invalidArguments, .notInitialized]
      | .enable _ => [.success, .invalidArguments, .notInitialized, .outOfBoundary]
      | .disable _ => [.success, .invalidArguments, .notInitialized, .outOfBoundary]
      | .delay _ _ => [.success, .invalidArguments, .notInitialized, .unsupportedFeature, .outOfBoundary]
      | .genpwm _ _ => [.success, .invalidArguments, .notInitialized, .unsupportedFeature, .outOfBoundary]
      | .evtOvf _ => []
      | .evtCmp _ => []
    (∀ c, t.out.status = some c → c ∈ allowed) ∧ (allowed ≠ [] → (t.out.status = none ↔ t.fault ≠ none))) ∧
  (Status.success.code = 0#8 ∧ Status.invalidArguments.code = 1#8 ∧ Status.notInitialized.code = 2#8 ∧
    Status.alreadyInitialized.code = 3#8 ∧ Status.unsupportedFeature.code = 4#8 ∧ Status.outOfBoundary.code = 5#8 ∧
    Status.unsupportedConfiguration.code = 6#8)

/-- R247, R248: Fire is emitted only by an event, with the slot's non-null handle, when the count path clears CNT; Toggle only
by a compare event of a PWM slot under the emulation strategy, with its pin; never both in one step. -/
def Obligations.PulsesOnlyFromEvents : Prop :=
  ∀ (op : Instr) (s t : State), exec op s = .next t →
    (∀ f, t.out.fire = some f →
      (op = .evtOvf f.timer.eidx ∨ op = .evtCmp f.timer.eidx) ∧ f.handle ≠ 0#16 ∧
      f.handle = (s.slots.get f.timer).cb ∧ (t.ctrs.get f.timer).cnt = 0#32 ∧ t.out.toggle = none) ∧
    (∀ pin, t.out.toggle = some pin →
      ∃ i : TimerId, op = .evtCmp i.eidx ∧ (s.cfg.timers.get i).strategy = .emulation pin ∧
        2 ≤ (s.slots.get i).mode.toNat ∧ (s.slots.get i).mode.toNat ≤ 3 ∧ t.out.fire = none)

/-- R16, R82, R90, R110 to R197: an operation leaves the counters and latches of every timer but the one its own IDX or EIDX
names as they are, and, once the table is initialised, their slots too; one that names no timer leaves the counters, latches
and slots of every timer as they are, whatever DBI. -/
def Obligations.TimersAreIsolated : Prop :=
  ∀ (op : Instr) (s t : State), exec op s = .next t →
    ∀ j : TimerId, op.timer? ≠ some j →
      t.ctrs.get j = s.ctrs.get j ∧ t.latches.get j = s.latches.get j ∧
      (s.dbi = true ∨ op.timer? = none → t.slots.get j = s.slots.get j)

/-- R26: while DBI = 0 no operation depends on what the slot fields hold: with other contents in the stale table it ends the
same way, and the states it leaves agree, in the slots too once DBI has become 1. -/
def Obligations.StaleTableUnobservable : Prop :=
  ∀ (op : Instr) (s : State) (stale : Trio Slot), s.dbi = false →
    (∀ t, exec op s = .next t →
      exec op { s with slots := stale } = .next (if t.dbi then t else { t with slots := stale })) ∧
    (∀ r, exec op s = .refused r → exec op { s with slots := stale } = .refused r)

/-- R194: a timer leaves the phase Armed (read as in log 10) only by DISABLE or DEINIT of its index; a successful DELAY makes
its timer Armed; and nothing else does but an ENABLE of its index after an earlier DELAY (R271, R274). -/
def Obligations.ArmedUntilDisabled : Prop :=
  (∀ (op : Instr) (s t : State) (i : TimerId), s.phase i = some .armed → exec op s = .next t →
    t.phase i = some .armed ∨ op = .disable i.index ∨ op = .deinit i.index) ∧
  (∀ (s t : State) (i : TimerId) (ms : BitVec 32), exec (.delay i.index ms) s = .next t → t.out.status = some .success →
    t.phase i = some .armed) ∧
  (∀ (op : Instr) (s t : State) (i : TimerId), s.phase i ≠ some .armed → exec op s = .next t → t.phase i = some .armed →
    (∃ ms, op = .delay i.index ms) ∨ (op = .enable i.index ∧ (s.ctrs.get i).need ≠ 0#32))
end

