-- ==== Sys2Proof/Laws/Trio.lean ====
section
/-! SUPPORT. Reading one timer's share after a write of one, and what the operand codes stand for. -/

namespace Sys2Proof

/-! ## Trio -/

@[simp] theorem Trio.get_set_same {α : Type} (t : Trio α) (i : TimerId) (v : α) : (t.set i v).get i = v := by
  cases i <;> rfl

theorem Trio.get_set_of_ne {α : Type} (t : Trio α) {i j : TimerId} (v : α) (h : j ≠ i) :
    (t.set i v).get j = t.get j := by
  cases i <;> cases j <;> first | rfl | exact absurd rfl h

theorem Trio.get_set {α : Type} (t : Trio α) (i j : TimerId) (v : α) :
    (t.set i v).get j = if j = i then v else t.get j := by
  split
  · subst j; exact t.get_set_same i v
  · exact t.get_set_of_ne v ‹_›

@[simp] theorem Trio.set_set {α : Type} (t : Trio α) (i : TimerId) (v w : α) : (t.set i v).set i w = t.set i w := by
  cases i <;> rfl

@[simp] theorem Trio.set_get {α : Type} (t : Trio α) (i : TimerId) : t.set i (t.get i) = t := by
  cases i <;> rfl

/-- Writing all three timers leaves nothing of what was there. -/
@[simp] theorem Trio.set_all {α : Type} (t : Trio α) (v : α) :
    ((t.set .t0 v).set .t1 v).set .t2 v = { t0 := v, t1 := v, t2 := v } := rfl

@[simp] theorem Trio.get_const {α : Type} (v : α) (i : TimerId) : ({ t0 := v, t1 := v, t2 := v } : Trio α).get i = v := by
  cases i <;> rfl

theorem Trio.ext_get {α : Type} {t u : Trio α} (h : ∀ i, t.get i = u.get i) : t = u := by
  cases t; cases u
  have h0 := h .t0; have h1 := h .t1; have h2 := h .t2
  simp only [Trio.get] at h0 h1 h2
  simp [h0, h1, h2]

/-! ## Indices -/

@[simp] theorem timerOf?_index (i : TimerId) : timerOf? i.index = some i := by cases i <;> rfl

@[simp] theorem eventTimer?_eidx (i : TimerId) : eventTimer? i.eidx = some i := by cases i <;> rfl

theorem timerOf?_eq_some {idx : BitVec 8} {i : TimerId} : timerOf? idx = some i ↔ idx = i.index := by
  constructor
  · intro h
    unfold timerOf? at h
    split at h
    · cases h; assumption
    · split at h
      · cases h; assumption
      · split at h
        · cases h; assumption
        · cases h
  · rintro rfl; exact timerOf?_index i

theorem timerOf?_eq_none {idx : BitVec 8} : timerOf? idx = none ↔ 3 ≤ idx.toNat := by
  unfold timerOf?
  constructor
  · intro h
    by_contra hlt
    have : idx = 0#8 ∨ idx = 1#8 ∨ idx = 2#8 := by bv_omega
    rcases this with rfl | rfl | rfl <;> simp at h
  · intro h
    rw [if_neg (by bv_omega), if_neg (by bv_omega), if_neg (by bv_omega)]

theorem eventTimer?_eq_some {e : BitVec 2} {i : TimerId} : eventTimer? e = some i ↔ e = i.eidx := by
  revert e; cases i <;> decide

theorem eventTimer?_eq_none {e : BitVec 2} : eventTimer? e = none ↔ e = 3#2 := by
  revert e; decide

theorem TimerId.index_injective {i j : TimerId} (h : i.index = j.index) : i = j := by
  cases i <;> cases j <;> first | rfl | (simp [TimerId.index] at h)

/-! The timer an operation names is the one of its index. -/

@[simp] theorem Instr.timer?_init (idx : BitVec 8) (iu : BitVec 2) (mode pre : BitVec 3) (cb : BitVec 16) :
    (Instr.init idx iu mode pre cb).timer? = timerOf? idx := rfl
@[simp] theorem Instr.timer?_deinit (idx : BitVec 8) : (Instr.deinit idx).timer? = timerOf? idx := rfl
@[simp] theorem Instr.timer?_enable (idx : BitVec 8) : (Instr.enable idx).timer? = timerOf? idx := rfl
@[simp] theorem Instr.timer?_disable (idx : BitVec 8) : (Instr.disable idx).timer? = timerOf? idx := rfl
@[simp] theorem Instr.timer?_delay (idx : BitVec 8) (ms : BitVec 32) : (Instr.delay idx ms).timer? = timerOf? idx := rfl
@[simp] theorem Instr.timer?_genpwm (idx duty : BitVec 8) : (Instr.genpwm idx duty).timer? = timerOf? idx := rfl
@[simp] theorem Instr.timer?_evtOvf (e : BitVec 2) : (Instr.evtOvf e).timer? = eventTimer? e := rfl
@[simp] theorem Instr.timer?_evtCmp (e : BitVec 2) : (Instr.evtCmp e).timer? = eventTimer? e := rfl

/-! ## Enumerants -/

@[simp] theorem modeOf?_code (m : Mode) : modeOf? m.code = some m := by cases m <;> rfl

@[simp] theorem prescalerOf?_code (p : Prescaler) : prescalerOf? p.code = some p := by cases p <;> rfl

@[simp] theorem usageOf?_code (u : IntUsage) : usageOf? u.code = some u := by cases u <;> rfl

theorem modeOf?_eq_some {c : BitVec 3} {m : Mode} : modeOf? c = some m ↔ c = m.code := by
  revert c; cases m <;> decide

theorem modeOf?_eq_none {c : BitVec 3} : modeOf? c = none ↔ 4 ≤ c.toNat := by revert c; decide

theorem prescalerOf?_eq_some {c : BitVec 3} {p : Prescaler} : prescalerOf? c = some p ↔ c = p.code := by
  revert c; cases p <;> decide

theorem prescalerOf?_eq_none {c : BitVec 3} : prescalerOf? c = none ↔ 5 ≤ c.toNat := by revert c; decide

theorem usageOf?_eq_some {c : BitVec 2} {u : IntUsage} : usageOf? c = some u ↔ c = u.code := by
  revert c; cases u <;> decide

theorem usageOf?_eq_none {c : BitVec 2} : usageOf? c = none ↔ 2 ≤ c.toNat := by revert c; decide

theorem delayMode?_iff {c : BitVec 3} : delayMode? c = true ↔ c.toNat ≤ 1 := by revert c; decide

theorem delayMode?_false_iff {c : BitVec 3} : delayMode? c = false ↔ 2 ≤ c.toNat := by revert c; decide

theorem pwmMode?_iff {c : BitVec 3} : pwmMode? c = true ↔ 2 ≤ c.toNat ∧ c.toNat ≤ 3 := by revert c; decide

theorem pwmMode?_false_iff {c : BitVec 3} : pwmMode? c = false ↔ c.toNat ≤ 1 ∨ 4 ≤ c.toNat := by revert c; decide

theorem dutyLegal_iff {d : BitVec 8} : dutyLegal d = true ↔ 1 ≤ d.toNat ∧ d.toNat ≤ 99 := by simp [dutyLegal]

theorem dutyLegal_false_iff {d : BitVec 8} : dutyLegal d = false ↔ d.toNat = 0 ∨ 100 ≤ d.toNat := by
  rw [← Bool.not_eq_true, dutyLegal_iff]; omega

/-! ## Widths -/

@[simp] theorem Width.max_w8 : Width.w8.max = 255 := rfl
@[simp] theorem Width.max_w16 : Width.w16.max = 65535 := rfl
@[simp] theorem Width.range_w8 : Width.w8.range = 256 := rfl
@[simp] theorem Width.range_w16 : Width.w16.range = 65536 := rfl

theorem Width.max_lt (w : Width) : w.max < 2 ^ 16 := by cases w <;> decide

theorem Width.max_add_one (w : Width) : w.max + 1 = w.range := by cases w <;> rfl

/-- A W(i)-bit latch holds at most MAX(i). -/
theorem Width.fit_le_max (w : Width) (v : BitVec 16) : (w.fit v).toNat ≤ w.max := by
  cases w with
  | w8 =>
    have h := (v.extractLsb' 0 8).isLt
    simp only [Width.fit, BitVec.toNat_setWidth, Width.max_w8]
    rw [Nat.mod_eq_of_lt (by omega)]; omega
  | w16 => have := v.isLt; simp only [Width.fit, Width.max_w16]; omega

/-- A value of at most MAX(i) is held whole. -/
theorem Width.fit_eq_self (w : Width) {v : BitVec 16} (h : v.toNat ≤ w.max) : w.fit v = v := by
  cases w with
  | w8 =>
    simp only [Width.max_w8] at h
    apply BitVec.eq_of_toNat_eq
    simp only [Width.fit, BitVec.toNat_setWidth, BitVec.extractLsb'_toNat, Nat.shiftRight_zero]
    omega
  | w16 => rfl

end Sys2Proof
end

