-- ==== Sys2Proof/Laws/Calc.lean ====
section
/-! SUPPORT. The ranges of the two calculators' results, and what legal parameters give. -/

namespace Sys2Proof

/-- The reload always fits the latch (R146). -/
theorem planFor_reload_le (ms T : Nat) (w : Width) : (planFor ms T w).reload ≤ w.max := Nat.sub_le _ _

theorem calcDelay_reload_le (fcpu : Nat) (p : Prescaler) (w : Width) (ms : Nat) :
    (calcDelay fcpu p w ms).reload ≤ w.max := planFor_reload_le _ _ _

/-- The repeat count is the ceiling of N / T (R143). -/
theorem planFor_count_ceil (ms : Nat) {T : Nat} (w : Width) (hT : 0 < T) :
    ms * 1000 ≤ (planFor ms T w).count * T ∧ (0 < ms → ((planFor ms T w).count - 1) * T < ms * 1000) := by
  have hd := Nat.div_add_mod (ms * 1000) T
  have hr := Nat.mod_lt (ms * 1000) hT
  have hc : T * (ms * 1000 / T) = ms * 1000 / T * T := Nat.mul_comm _ _
  simp only [planFor]
  split
  · rw [Nat.add_sub_cancel, Nat.add_mul]; omega
  · rw [Nat.add_zero]
    refine ⟨by omega, fun hms => ?_⟩
    rcases Nat.eq_zero_or_pos (ms * 1000 / T) with h0 | h0
    · rw [h0]; omega
    · have : (ms * 1000 / T - 1) * T < ms * 1000 / T * T := Nat.mul_lt_mul_of_pos_right (by omega) hT
      omega

/-- A delay needs at least one period (R146). -/
theorem planFor_count_pos {ms T : Nat} (w : Width) (hms : 0 < ms) (hT : 0 < T) : 0 < (planFor ms T w).count := by
  have h := (planFor_count_ceil ms w hT).1
  rcases Nat.eq_zero_or_pos (planFor ms T w).count with h0 | h0
  · rw [h0] at h; omega
  · exact h0

/-- The remainder in ticks is at most MAX (R146). -/
theorem remTicks_le (N : Nat) {T : Nat} (w : Width) (hT : 0 < T) : N % T * w.range / T ≤ w.max := by
  have hr : 0 < w.range := by cases w <;> decide
  have h : N % T * w.range / T < w.range := by
    rw [Nat.div_lt_iff_lt_mul hT, Nat.mul_comm]
    exact Nat.mul_lt_mul_of_pos_left (Nat.mod_lt N hT) hr
  rw [← w.max_add_one] at h
  rw [← w.max_add_one]
  omega

/-- The thresholds stay within MAX for a legal duty (R172). -/
theorem calcPwm_on_le {duty : Nat} (h : duty ≤ 99) (w : Width) : (calcPwm duty w).on ≤ w.max := by
  cases w <;> simp only [calcPwm, Width.max_w8, Width.max_w16] <;> omega

/-- The thresholds add up to MAX (R172). -/
theorem calcPwm_sum {duty : Nat} (h : duty ≤ 99) (w : Width) : (calcPwm duty w).on + (calcPwm duty w).off = w.max := by
  have := calcPwm_on_le h w
  simp only [calcPwm] at *; omega

/-- Under legal parameters no overflow period is zero (R11). -/
theorem overflowTime_pos_of_legal {c : Config} (h : c.legal = true) (i : TimerId) (p : Prescaler) :
    1 ≤ overflowTime c.fcpu p (c.timers.get i).width := by
  simp only [Config.legal, TimerConfig.legal, Prescaler.all, List.all_cons, List.all_nil, Bool.and_eq_true,
    decide_eq_true_eq] at h
  obtain ⟨⟨⟨⟨-, h0⟩, h1⟩, h2⟩, -⟩ := h
  cases i <;> cases p <;> simp only [Trio.get] <;> tauto

end Sys2Proof
end

