-- ==== Sys2Proof/Laws/Decode.lean ====
section
/-! SUPPORT. What the decoder does with whole words, and that it yields well-formed operations only. -/

namespace Sys2Proof

theorem decode_event (w : EvtWord) : decode (.event w) = decodeWord (.event w) := rfl

theorem decode_bytes (b0 b1 b2 b3 b4 b5 b6 b7 : Byte) :
    decode (.command [b0, b1, b2, b3, b4, b5, b6, b7]) =
      decodeWord (.command (b7 ++ b6 ++ b5 ++ b4 ++ b3 ++ b2 ++ b1 ++ b0)) := rfl

/-- Only eight bytes are a command (R65). -/
theorem commandOfBytes?_eq_none {bytes : List Byte} (h : bytes.length ≠ 8) : commandOfBytes? bytes = none := by
  unfold commandOfBytes?
  split
  · exact absurd rfl h
  · rfl

theorem decode_partial {bytes : List Byte} (h : bytes.length ≠ 8) :
    decode (.command bytes) = .rejected .partialCommand := by
  simp [decode, PortInput.word?, commandOfBytes?_eq_none h]

/-- A command word's operation is well formed (R82 to R87). -/
theorem decodeCommand_wellFormed {w : CmdWord} {i : Instr} (h : decodeCommand w = some i) : i.wellFormed = true := by
  unfold decodeCommand at h
  split at h <;> cases h <;> rfl

/-- An event word's operation is well formed (R90, R91). -/
theorem decodeEvent_wellFormed {w : EvtWord} {i : Instr} (h : decodeEvent w = some i) : i.wellFormed = true := by
  unfold decodeEvent at h
  split at h
  · cases h; split <;> simpa [Instr.wellFormed]
  · cases h

/-- Every operation the decoder yields is well formed. -/
theorem decode_wellFormed {p : PortInput} {i : Instr} (h : decode p = .instr i) : i.wellFormed = true := by
  unfold decode at h
  split at h
  · next w _ =>
    unfold decodeWord at h
    split at h
    · split at h <;> cases h
      exact decodeCommand_wellFormed ‹_›
    · split at h <;> cases h
      exact decodeEvent_wellFormed ‹_›
  · cases h

/-! ## Fields of a word put together -/

/-- A field that lies in the low part of a concatenation. -/
theorem extract_append_low {m n s l : Nat} (x : BitVec m) (y : BitVec n) (h : s + l ≤ n) :
    (x ++ y).extractLsb' s l = y.extractLsb' s l := BitVec.extractLsb'_append_eq_of_add_le h

/-- A field that lies in the high part of a concatenation. -/
theorem extract_append_high {m n s l : Nat} (x : BitVec m) (y : BitVec n) (h : n ≤ s) :
    (x ++ y).extractLsb' s l = x.extractLsb' (s - n) l := by
  ext k hk
  simp only [BitVec.getElem_extractLsb', BitVec.getLsbD_append]
  rw [if_neg (by omega)]; congr 1; omega

theorem cmdOp_packCommand (operands : BitVec 48) (idx : BitVec 8) (op : BitVec 4) :
    cmdOp (packCommand operands idx op) = op := by
  rw [cmdOp, packCommand, extract_append_low _ _ (by decide), BitVec.extractLsb'_eq_self]

theorem cmdIdx_packCommand (operands : BitVec 48) (idx : BitVec 8) (op : BitVec 4) :
    cmdIdx (packCommand operands idx op) = idx := by
  rw [cmdIdx, packCommand, extract_append_high _ _ (by decide), extract_append_high _ _ (by decide),
    extract_append_low _ _ (by decide), BitVec.extractLsb'_eq_self]

/-- A field above bit 16 of a command word is one of its operands (R80). -/
theorem operands_packCommand (operands : BitVec 48) (idx : BitVec 8) (op : BitVec 4) (s l : Nat) :
    (packCommand operands idx op).extractLsb' (16 + s) l = operands.extractLsb' s l := by
  rw [packCommand, extract_append_high _ _ (by omega), extract_append_high _ _ (by omega),
    extract_append_high _ _ (by omega)]
  congr 1; omega

/-- A field as a number (R15). -/
theorem extract_eq_ofNat {n : Nat} (w : BitVec n) (s l : Nat) :
    w.extractLsb' s l = BitVec.ofNat l (w.toNat / 2 ^ s) := by
  apply BitVec.eq_of_toNat_eq
  simp [BitVec.extractLsb'_toNat, Nat.shiftRight_eq_div_pow]

/-- Two words that agree under a mask agree on every field the mask holds whole (R83). -/
theorem extract_eq_of_mask {n : Nat} {v w m : BitVec n} {s l : Nat} (h : v &&& m = w &&& m)
    (hm : ∀ k, k < l → m.getLsbD (s + k) = true) : v.extractLsb' s l = w.extractLsb' s l := by
  ext k hk
  have := congrArg (fun x => BitVec.getLsbD x (s + k)) h
  simpa [hm k hk] using this

/-- The low four bits of a command word are its OP (R80). -/
theorem packCommand_op (operands : BitVec 48) (idx : BitVec 8) (op : BitVec 4) :
    packCommand operands idx op &&& 0xF#64 = op.setWidth 64 := by
  apply BitVec.eq_of_getLsbD_eq
  intro k hk
  have hF : (0xF#64).getLsbD k = decide (k < 4) := by
    rcases k with _ | _ | _ | _ | k
    · rfl
    · rfl
    · rfl
    · rfl
    · rw [BitVec.getLsbD_ofNat, Nat.testBit_eq_false_of_lt]
      · simp
      · calc 15 < 2 ^ 4 := by decide
          _ ≤ 2 ^ (k + 1 + 1 + 1 + 1) := Nat.pow_le_pow_right (by decide) (by omega)
  rw [BitVec.getLsbD_and, hF, packCommand, BitVec.getLsbD_append, BitVec.getLsbD_setWidth]
  by_cases h4 : k < 4
  · simp [h4, hk]
  · simp [h4, BitVec.getLsbD_of_ge _ _ (Nat.le_of_not_lt h4)]

end Sys2Proof
end

