-- ==== Sys2Proof/Laws/Flags.lean ====
section
/-! SUPPORT. What each field of CTRL and IE reads after a write of one of them. -/

namespace Sys2Proof.Machine

@[simp] theorem ctrlCs_withCs (c : BitVec 8) (cs : BitVec 3) : ctrlCs (ctrlWithCs c cs) = cs := by
  unfold ctrlCs ctrlWithCs ctrlReserved ctrlWgm
  rw [BitVec.extractLsb'_append_eq_of_add_le (by decide), BitVec.extractLsb'_eq_self]

/-- Bits 7:3 are kept where CS is written. -/
@[simp] theorem ctrlHigh_withCs (c : BitVec 8) (cs : BitVec 3) :
    (ctrlWithCs c cs).extractLsb' 3 5 = c.extractLsb' 3 5 := by
  unfold ctrlWithCs ctrlReserved ctrlWgm
  ext k hk
  simp only [BitVec.getElem_extractLsb', BitVec.getLsbD_append, BitVec.getLsbD_extractLsb']
  rcases k with _ | _ | _ | _ | _ | k <;> simp
  omega

@[simp] theorem ctrlWgm_withCs (c : BitVec 8) (cs : BitVec 3) : ctrlWgm (ctrlWithCs c cs) = ctrlWgm c := by
  unfold ctrlWithCs ctrlReserved ctrlWgm
  ext k hk
  simp only [BitVec.getElem_extractLsb', BitVec.getLsbD_append, BitVec.getLsbD_extractLsb']
  rcases k with _ | _ | k <;> simp
  omega

@[simp] theorem ctrlReserved_withCs (c : BitVec 8) (cs : BitVec 3) :
    ctrlReserved (ctrlWithCs c cs) = ctrlReserved c := by
  unfold ctrlWithCs ctrlReserved ctrlWgm
  ext k hk
  simp only [BitVec.getElem_extractLsb', BitVec.getLsbD_append, BitVec.getLsbD_extractLsb']
  rcases k with _ | _ | _ | k <;> simp
  omega

@[simp] theorem ctrlCs_withWgm (c : BitVec 8) (w : BitVec 2) : ctrlCs (ctrlWithWgm c w) = ctrlCs c := by
  unfold ctrlWithWgm ctrlReserved ctrlCs
  ext k hk
  simp only [BitVec.getElem_extractLsb', BitVec.getLsbD_append, BitVec.getLsbD_extractLsb']
  rcases k with _ | _ | _ | k <;> simp
  omega

@[simp] theorem ctrlWgm_withWgm (c : BitVec 8) (w : BitVec 2) : ctrlWgm (ctrlWithWgm c w) = w := by
  unfold ctrlWithWgm ctrlReserved ctrlCs ctrlWgm
  ext k hk
  simp only [BitVec.getElem_extractLsb', BitVec.getLsbD_append, BitVec.getLsbD_extractLsb']
  rcases k with _ | _ | k <;> simp [BitVec.getLsbD_eq_getElem]
  omega

@[simp] theorem ctrlReserved_withWgm (c : BitVec 8) (w : BitVec 2) :
    ctrlReserved (ctrlWithWgm c w) = ctrlReserved c := by
  unfold ctrlWithWgm ctrlReserved ctrlCs
  ext k hk
  simp only [BitVec.getElem_extractLsb', BitVec.getLsbD_append, BitVec.getLsbD_extractLsb']
  rcases k with _ | _ | _ | k <;> simp
  omega

/-- CTRL is its three fields. -/
theorem ctrl_fields (c : BitVec 8) : ctrlReserved c ++ ctrlWgm c ++ ctrlCs c = c := by
  unfold ctrlReserved ctrlWgm ctrlCs
  ext k hk
  simp only [BitVec.getElem_append, BitVec.getElem_extractLsb']
  rcases k with _ | _ | _ | _ | _ | _ | _ | _ | k <;> simp [BitVec.getLsbD_eq_getElem]
  omega

/-- Writing the CS that CTRL already has changes nothing, whatever CS was written between. -/
theorem ctrlWithCs_restore (c : BitVec 8) (cs : BitVec 3) : ctrlWithCs (ctrlWithCs c cs) (ctrlCs c) = c := by
  conv_rhs => rw [← ctrl_fields c]
  conv_lhs => unfold ctrlWithCs
  have h1 := ctrlReserved_withCs c cs
  have h2 := ctrlWgm_withCs c cs
  unfold ctrlWithCs at h1 h2
  rw [h1, h2]

@[simp] theorem ieBit_ieSet_same (ie : BitVec 2) (k : EventKind) : ieBit (ieSet ie k) k = true := by
  revert ie; cases k <;> decide

/-- A write of one IE bit never clears the other. -/
theorem ieBit_ieSet_mono {ie : BitVec 2} {k l : EventKind} (h : ieBit ie l = true) : ieBit (ieSet ie k) l = true := by
  revert ie; cases k <;> cases l <;> decide

end Sys2Proof.Machine
end

