-- ==== Sys2Proof/Laws/State.lean ====
section
/-! SUPPORT. One lemma per field per update of the state, each by rfl, so that no proof unfolds a record update; and the
accessors of one timer's share. -/

namespace Sys2Proof.Machine

@[simp] theorem State.timer_eq (s : State) (i : TimerId) : s.timer i = s.cfg.timers.get i := rfl
@[simp] theorem State.slot_eq (s : State) (i : TimerId) : s.slot i = s.slots.get i := rfl
@[simp] theorem State.ctr_eq (s : State) (i : TimerId) : s.ctr i = s.ctrs.get i := rfl
@[simp] theorem State.latch_eq (s : State) (i : TimerId) : s.latch i = s.latches.get i := rfl

@[simp] theorem State.setSlot_cfg (s : State) (i : TimerId) (v : Slot) : (s.setSlot i v).cfg = s.cfg := rfl
@[simp] theorem State.setSlot_dbi (s : State) (i : TimerId) (v : Slot) : (s.setSlot i v).dbi = s.dbi := rfl
@[simp] theorem State.setSlot_slots (s : State) (i : TimerId) (v : Slot) :
    (s.setSlot i v).slots =
      s.slots.set i v := rfl
@[simp] theorem State.setSlot_ctrs (s : State) (i : TimerId) (v : Slot) : (s.setSlot i v).ctrs = s.ctrs := rfl
@[simp] theorem State.setSlot_latches (s : State) (i : TimerId) (v : Slot) : (s.setSlot i v).latches = s.latches := rfl
@[simp] theorem State.setSlot_gie (s : State) (i : TimerId) (v : Slot) : (s.setSlot i v).gie = s.gie := rfl
@[simp] theorem State.setSlot_fault (s : State) (i : TimerId) (v : Slot) : (s.setSlot i v).fault = s.fault := rfl
@[simp] theorem State.setSlot_out (s : State) (i : TimerId) (v : Slot) : (s.setSlot i v).out = s.out := rfl
@[simp] theorem State.setSlot_current (s : State) (i : TimerId) (v : Slot) : (s.setSlot i v).current = s.current := rfl
@[simp] theorem State.setSlot_inbox (s : State) (i : TimerId) (v : Slot) : (s.setSlot i v).inbox = s.inbox := rfl

@[simp] theorem State.setCtr_cfg (s : State) (i : TimerId) (v : Counters) : (s.setCtr i v).cfg = s.cfg := rfl
@[simp] theorem State.setCtr_dbi (s : State) (i : TimerId) (v : Counters) : (s.setCtr i v).dbi = s.dbi := rfl
@[simp] theorem State.setCtr_slots (s : State) (i : TimerId) (v : Counters) : (s.setCtr i v).slots = s.slots := rfl
@[simp] theorem State.setCtr_ctrs (s : State) (i : TimerId) (v : Counters) : (s.setCtr i v).ctrs = s.ctrs.set i v := rfl
@[simp] theorem State.setCtr_latches (s : State) (i : TimerId) (v : Counters) :
    (s.setCtr i v).latches =
      s.latches := rfl
@[simp] theorem State.setCtr_gie (s : State) (i : TimerId) (v : Counters) : (s.setCtr i v).gie = s.gie := rfl
@[simp] theorem State.setCtr_fault (s : State) (i : TimerId) (v : Counters) : (s.setCtr i v).fault = s.fault := rfl
@[simp] theorem State.setCtr_out (s : State) (i : TimerId) (v : Counters) : (s.setCtr i v).out = s.out := rfl
@[simp] theorem State.setCtr_current (s : State) (i : TimerId) (v : Counters) :
    (s.setCtr i v).current =
      s.current := rfl
@[simp] theorem State.setCtr_inbox (s : State) (i : TimerId) (v : Counters) : (s.setCtr i v).inbox = s.inbox := rfl

@[simp] theorem State.setLatch_cfg (s : State) (i : TimerId) (v : Latches) : (s.setLatch i v).cfg = s.cfg := rfl
@[simp] theorem State.setLatch_dbi (s : State) (i : TimerId) (v : Latches) : (s.setLatch i v).dbi = s.dbi := rfl
@[simp] theorem State.setLatch_slots (s : State) (i : TimerId) (v : Latches) : (s.setLatch i v).slots = s.slots := rfl
@[simp] theorem State.setLatch_ctrs (s : State) (i : TimerId) (v : Latches) : (s.setLatch i v).ctrs = s.ctrs := rfl
@[simp] theorem State.setLatch_latches (s : State) (i : TimerId) (v : Latches) :
    (s.setLatch i v).latches =
      s.latches.set i v := rfl
@[simp] theorem State.setLatch_gie (s : State) (i : TimerId) (v : Latches) : (s.setLatch i v).gie = s.gie := rfl
@[simp] theorem State.setLatch_fault (s : State) (i : TimerId) (v : Latches) : (s.setLatch i v).fault = s.fault := rfl
@[simp] theorem State.setLatch_out (s : State) (i : TimerId) (v : Latches) : (s.setLatch i v).out = s.out := rfl
@[simp] theorem State.setLatch_current (s : State) (i : TimerId) (v : Latches) :
    (s.setLatch i v).current =
      s.current := rfl
@[simp] theorem State.setLatch_inbox (s : State) (i : TimerId) (v : Latches) : (s.setLatch i v).inbox = s.inbox := rfl

@[simp] theorem State.setEnabled_cfg (s : State) (i : TimerId) (b : Bool) : (s.setEnabled i b).cfg = s.cfg := rfl
@[simp] theorem State.setEnabled_dbi (s : State) (i : TimerId) (b : Bool) : (s.setEnabled i b).dbi = s.dbi := rfl
@[simp] theorem State.setEnabled_slots (s : State) (i : TimerId) (b : Bool) :
    (s.setEnabled i b).slots =
      s.slots.set i { s.slots.get i with en := b } := rfl
@[simp] theorem State.setEnabled_ctrs (s : State) (i : TimerId) (b : Bool) : (s.setEnabled i b).ctrs = s.ctrs := rfl
@[simp] theorem State.setEnabled_latches (s : State) (i : TimerId) (b : Bool) :
    (s.setEnabled i b).latches =
      s.latches := rfl
@[simp] theorem State.setEnabled_gie (s : State) (i : TimerId) (b : Bool) : (s.setEnabled i b).gie = s.gie := rfl
@[simp] theorem State.setEnabled_fault (s : State) (i : TimerId) (b : Bool) : (s.setEnabled i b).fault = s.fault := rfl
@[simp] theorem State.setEnabled_out (s : State) (i : TimerId) (b : Bool) : (s.setEnabled i b).out = s.out := rfl
@[simp] theorem State.setEnabled_current (s : State) (i : TimerId) (b : Bool) :
    (s.setEnabled i b).current =
      s.current := rfl
@[simp] theorem State.setEnabled_inbox (s : State) (i : TimerId) (b : Bool) : (s.setEnabled i b).inbox = s.inbox := rfl

@[simp] theorem State.setCs_cfg (s : State) (i : TimerId) (cs : BitVec 3) : (s.setCs i cs).cfg = s.cfg := rfl
@[simp] theorem State.setCs_dbi (s : State) (i : TimerId) (cs : BitVec 3) : (s.setCs i cs).dbi = s.dbi := rfl
@[simp] theorem State.setCs_slots (s : State) (i : TimerId) (cs : BitVec 3) : (s.setCs i cs).slots = s.slots := rfl
@[simp] theorem State.setCs_ctrs (s : State) (i : TimerId) (cs : BitVec 3) : (s.setCs i cs).ctrs = s.ctrs := rfl
@[simp] theorem State.setCs_latches (s : State) (i : TimerId) (cs : BitVec 3) :
    (s.setCs i cs).latches =
      s.latches.set i { s.latches.get i with ctrl := ctrlWithCs (s.latches.get i).ctrl cs } := rfl
@[simp] theorem State.setCs_gie (s : State) (i : TimerId) (cs : BitVec 3) : (s.setCs i cs).gie = s.gie := rfl
@[simp] theorem State.setCs_fault (s : State) (i : TimerId) (cs : BitVec 3) : (s.setCs i cs).fault = s.fault := rfl
@[simp] theorem State.setCs_out (s : State) (i : TimerId) (cs : BitVec 3) : (s.setCs i cs).out = s.out := rfl
@[simp] theorem State.setCs_current (s : State) (i : TimerId) (cs : BitVec 3) :
    (s.setCs i cs).current =
      s.current := rfl
@[simp] theorem State.setCs_inbox (s : State) (i : TimerId) (cs : BitVec 3) : (s.setCs i cs).inbox = s.inbox := rfl

@[simp] theorem State.setWgm_cfg (s : State) (i : TimerId) (w : BitVec 2) : (s.setWgm i w).cfg = s.cfg := rfl
@[simp] theorem State.setWgm_dbi (s : State) (i : TimerId) (w : BitVec 2) : (s.setWgm i w).dbi = s.dbi := rfl
@[simp] theorem State.setWgm_slots (s : State) (i : TimerId) (w : BitVec 2) : (s.setWgm i w).slots = s.slots := rfl
@[simp] theorem State.setWgm_ctrs (s : State) (i : TimerId) (w : BitVec 2) : (s.setWgm i w).ctrs = s.ctrs := rfl
@[simp] theorem State.setWgm_latches (s : State) (i : TimerId) (w : BitVec 2) :
    (s.setWgm i w).latches =
      s.latches.set i { s.latches.get i with ctrl := ctrlWithWgm (s.latches.get i).ctrl w } := rfl
@[simp] theorem State.setWgm_gie (s : State) (i : TimerId) (w : BitVec 2) : (s.setWgm i w).gie = s.gie := rfl
@[simp] theorem State.setWgm_fault (s : State) (i : TimerId) (w : BitVec 2) : (s.setWgm i w).fault = s.fault := rfl
@[simp] theorem State.setWgm_out (s : State) (i : TimerId) (w : BitVec 2) : (s.setWgm i w).out = s.out := rfl
@[simp] theorem State.setWgm_current (s : State) (i : TimerId) (w : BitVec 2) :
    (s.setWgm i w).current =
      s.current := rfl
@[simp] theorem State.setWgm_inbox (s : State) (i : TimerId) (w : BitVec 2) : (s.setWgm i w).inbox = s.inbox := rfl

@[simp] theorem State.enableSource_cfg (s : State) (i : TimerId) (k : EventKind) :
    (s.enableSource i k).cfg =
      s.cfg := rfl
@[simp] theorem State.enableSource_dbi (s : State) (i : TimerId) (k : EventKind) :
    (s.enableSource i k).dbi =
      s.dbi := rfl
@[simp] theorem State.enableSource_slots (s : State) (i : TimerId) (k : EventKind) :
    (s.enableSource i k).slots =
      s.slots := rfl
@[simp] theorem State.enableSource_ctrs (s : State) (i : TimerId) (k : EventKind) :
    (s.enableSource i k).ctrs =
      s.ctrs := rfl
@[simp] theorem State.enableSource_latches (s : State) (i : TimerId) (k : EventKind) :
    (s.enableSource i k).latches =
      s.latches.set i { s.latches.get i with ie := ieSet (s.latches.get i).ie k } := rfl
@[simp] theorem State.enableSource_gie (s : State) (i : TimerId) (k : EventKind) :
    (s.enableSource i k).gie =
      true := rfl
@[simp] theorem State.enableSource_fault (s : State) (i : TimerId) (k : EventKind) :
    (s.enableSource i k).fault =
      s.fault := rfl
@[simp] theorem State.enableSource_out (s : State) (i : TimerId) (k : EventKind) :
    (s.enableSource i k).out =
      s.out := rfl
@[simp] theorem State.enableSource_current (s : State) (i : TimerId) (k : EventKind) :
    (s.enableSource i k).current =
      s.current := rfl
@[simp] theorem State.enableSource_inbox (s : State) (i : TimerId) (k : EventKind) :
    (s.enableSource i k).inbox =
      s.inbox := rfl

@[simp] theorem State.setOcr_cfg (s : State) (i : TimerId) (v : BitVec 16) : (s.setOcr i v).cfg = s.cfg := rfl
@[simp] theorem State.setOcr_dbi (s : State) (i : TimerId) (v : BitVec 16) : (s.setOcr i v).dbi = s.dbi := rfl
@[simp] theorem State.setOcr_slots (s : State) (i : TimerId) (v : BitVec 16) : (s.setOcr i v).slots = s.slots := rfl
@[simp] theorem State.setOcr_ctrs (s : State) (i : TimerId) (v : BitVec 16) : (s.setOcr i v).ctrs = s.ctrs := rfl
@[simp] theorem State.setOcr_latches (s : State) (i : TimerId) (v : BitVec 16) :
    (s.setOcr i v).latches =
      s.latches.set i { s.latches.get i with ocr := (s.cfg.timers.get i).width.fit v } := rfl
@[simp] theorem State.setOcr_gie (s : State) (i : TimerId) (v : BitVec 16) : (s.setOcr i v).gie = s.gie := rfl
@[simp] theorem State.setOcr_fault (s : State) (i : TimerId) (v : BitVec 16) : (s.setOcr i v).fault = s.fault := rfl
@[simp] theorem State.setOcr_out (s : State) (i : TimerId) (v : BitVec 16) : (s.setOcr i v).out = s.out := rfl
@[simp] theorem State.setOcr_current (s : State) (i : TimerId) (v : BitVec 16) :
    (s.setOcr i v).current =
      s.current := rfl
@[simp] theorem State.setOcr_inbox (s : State) (i : TimerId) (v : BitVec 16) : (s.setOcr i v).inbox = s.inbox := rfl

@[simp] theorem State.setTload_cfg (s : State) (i : TimerId) (v : BitVec 16) : (s.setTload i v).cfg = s.cfg := rfl
@[simp] theorem State.setTload_dbi (s : State) (i : TimerId) (v : BitVec 16) : (s.setTload i v).dbi = s.dbi := rfl
@[simp] theorem State.setTload_slots (s : State) (i : TimerId) (v : BitVec 16) : (s.setTload i v).slots = s.slots := rfl
@[simp] theorem State.setTload_ctrs (s : State) (i : TimerId) (v : BitVec 16) : (s.setTload i v).ctrs = s.ctrs := rfl
@[simp] theorem State.setTload_latches (s : State) (i : TimerId) (v : BitVec 16) :
    (s.setTload i v).latches =
      s.latches.set i { s.latches.get i with tload := (s.cfg.timers.get i).width.fit v } := rfl
@[simp] theorem State.setTload_gie (s : State) (i : TimerId) (v : BitVec 16) : (s.setTload i v).gie = s.gie := rfl
@[simp] theorem State.setTload_fault (s : State) (i : TimerId) (v : BitVec 16) : (s.setTload i v).fault = s.fault := rfl
@[simp] theorem State.setTload_out (s : State) (i : TimerId) (v : BitVec 16) : (s.setTload i v).out = s.out := rfl
@[simp] theorem State.setTload_current (s : State) (i : TimerId) (v : BitVec 16) :
    (s.setTload i v).current =
      s.current := rfl
@[simp] theorem State.setTload_inbox (s : State) (i : TimerId) (v : BitVec 16) : (s.setTload i v).inbox = s.inbox := rfl

@[simp] theorem State.unclaim_cfg (s : State) (i : TimerId) : (s.unclaim i).cfg = s.cfg := rfl
@[simp] theorem State.unclaim_dbi (s : State) (i : TimerId) : (s.unclaim i).dbi = s.dbi := rfl
@[simp] theorem State.unclaim_slots (s : State) (i : TimerId) :
    (s.unclaim i).slots =
      s.slots.set i Slot.unclaimed := rfl
@[simp] theorem State.unclaim_ctrs (s : State) (i : TimerId) : (s.unclaim i).ctrs = s.ctrs := rfl
@[simp] theorem State.unclaim_latches (s : State) (i : TimerId) : (s.unclaim i).latches = s.latches := rfl
@[simp] theorem State.unclaim_gie (s : State) (i : TimerId) : (s.unclaim i).gie = s.gie := rfl
@[simp] theorem State.unclaim_fault (s : State) (i : TimerId) : (s.unclaim i).fault = s.fault := rfl
@[simp] theorem State.unclaim_out (s : State) (i : TimerId) : (s.unclaim i).out = s.out := rfl
@[simp] theorem State.unclaim_current (s : State) (i : TimerId) : (s.unclaim i).current = s.current := rfl
@[simp] theorem State.unclaim_inbox (s : State) (i : TimerId) : (s.unclaim i).inbox = s.inbox := rfl

@[simp] theorem State.answering_cfg (s : State) (c : Status) : (s.answering c).cfg = s.cfg := rfl
@[simp] theorem State.answering_dbi (s : State) (c : Status) : (s.answering c).dbi = s.dbi := rfl
@[simp] theorem State.answering_slots (s : State) (c : Status) : (s.answering c).slots = s.slots := rfl
@[simp] theorem State.answering_ctrs (s : State) (c : Status) : (s.answering c).ctrs = s.ctrs := rfl
@[simp] theorem State.answering_latches (s : State) (c : Status) : (s.answering c).latches = s.latches := rfl
@[simp] theorem State.answering_gie (s : State) (c : Status) : (s.answering c).gie = s.gie := rfl
@[simp] theorem State.answering_fault (s : State) (c : Status) : (s.answering c).fault = s.fault := rfl
@[simp] theorem State.answering_out (s : State) (c : Status) :
    (s.answering c).out =
      { status := some c, fire := none, toggle := none } := rfl
@[simp] theorem State.answering_current (s : State) (c : Status) : (s.answering c).current = s.current := rfl
@[simp] theorem State.answering_inbox (s : State) (c : Status) : (s.answering c).inbox = s.inbox := rfl

@[simp] theorem State.stale_cfg (s : State) : (s.stale).cfg = s.cfg := rfl
@[simp] theorem State.stale_dbi (s : State) : (s.stale).dbi = s.dbi := rfl
@[simp] theorem State.stale_slots (s : State) : (s.stale).slots = s.slots := rfl
@[simp] theorem State.stale_ctrs (s : State) : (s.stale).ctrs = s.ctrs := rfl
@[simp] theorem State.stale_latches (s : State) : (s.stale).latches = s.latches := rfl
@[simp] theorem State.stale_gie (s : State) : (s.stale).gie = s.gie := rfl
@[simp] theorem State.stale_fault (s : State) :
    (s.stale).fault =
      some { reason := .staleTable, word := s.current } := rfl
@[simp] theorem State.stale_out (s : State) : (s.stale).out = { status := none, fire := none, toggle := none } := rfl
@[simp] theorem State.stale_current (s : State) : (s.stale).current = s.current := rfl
@[simp] theorem State.stale_inbox (s : State) : (s.stale).inbox = s.inbox := rfl

end Sys2Proof.Machine
end

