-- ==== Sys2Proof/Laws/Ops.lean ====
section
/-! SUPPORT. One lemma per shared operation: how an operation ends, what each guard lets through, the Claimed test, lazy
initialisation, the arm-writes, the derived phase, and several operations in a row. -/

namespace Sys2Proof.Machine

/-! ## Ends -/

theorem State.returns_eq (s : State) (c : Status) : s.returns c = .next (s.answering c) := rfl

theorem State.raise_eq (s : State) : s.raise .staleTable = .next s.stale := rfl

theorem State.returns_next {s t : State} {c : Status} (h : s.returns c = .next t) : t = s.answering c := by
  cases h; rfl

theorem State.raise_next {s t : State} (h : s.raise .staleTable = .next t) : t = s.stale := by
  cases h; rfl

/-! ## The Claimed test (R27) -/

theorem Slot.claimed_eq_false {v : Slot} : v.claimed = false ↔ v = Slot.unclaimed := by
  cases v; simp [Slot.claimed, Slot.unclaimed, and_assoc]

theorem Slot.claimed_eq_true {v : Slot} : v.claimed = true ↔ v ≠ Slot.unclaimed := by
  rw [← Bool.not_eq_false, ne_eq, Slot.claimed_eq_false]

theorem Slot.ne_unclaimed_of_mode {v : Slot} (h : v.mode.toNat ≤ 3) : v ≠ Slot.unclaimed := by
  rintro rfl; simp [Slot.unclaimed] at h

theorem Slot.ne_unclaimed_of_en {v : Slot} (h : v.en = true) : v ≠ Slot.unclaimed := by
  rintro rfl; simp [Slot.unclaimed] at h

/-! ## Guards (R116, R117, R126): what they answer, and what they let through -/

theorem withIndex_index (i : TimerId) (s : State) (k : TimerId → Result) : withIndex i.index s k = k i := by
  simp [withIndex]

theorem withIndex_illegal {idx : BitVec 8} (h : 3 ≤ idx.toNat) (s : State) (k : TimerId → Result) :
    withIndex idx s k = .next (s.answering .invalidArguments) := by
  rw [withIndex, timerOf?_eq_none.mpr h, State.returns_eq]

theorem withIndex_next {idx : BitVec 8} {s t : State} {k : TimerId → Result} (h : withIndex idx s k = .next t) :
    t = s.answering .invalidArguments ∨ ∃ i : TimerId, idx = i.index ∧ k i = .next t := by
  unfold withIndex at h
  split at h
  · exact .inl (State.returns_next h)
  · next i hi => exact .inr ⟨i, timerOf?_eq_some.mp hi, h⟩

theorem withClaimed_stale {s : State} (hd : s.dbi = false) (i : TimerId) (k : Result) :
    withClaimed i s k = .next s.stale := by
  rw [withClaimed, if_pos hd, State.raise_eq]

theorem withClaimed_unclaimed {s : State} {i : TimerId} (hd : s.dbi = true) (hu : s.slots.get i = Slot.unclaimed)
    (k : Result) : withClaimed i s k = .next (s.answering .notInitialized) := by
  rw [withClaimed, if_neg (by simp [hd]), if_pos (by simp [Slot.claimed_eq_false, hu]), State.returns_eq]

theorem withClaimed_claimed {s : State} {i : TimerId} (hd : s.dbi = true) (hc : s.slots.get i ≠ Slot.unclaimed)
    (k : Result) : withClaimed i s k = k := by
  rw [withClaimed, if_neg (by simp [hd]), if_neg (by simp [Slot.claimed_eq_true, hc])]

theorem withClaimed_next {s t : State} {i : TimerId} {k : Result} (h : withClaimed i s k = .next t) :
    (s.dbi = false ∧ t = s.stale) ∨ t = s.answering .notInitialized ∨
      (s.dbi = true ∧ s.slots.get i ≠ Slot.unclaimed ∧ k = .next t) := by
  unfold withClaimed at h
  split at h
  · exact .inl ⟨‹_›, State.raise_next h⟩
  · split at h
    · exact .inr (.inl (State.returns_next h))
    · next hd hc => exact .inr (.inr ⟨by simpa using hd, Slot.claimed_eq_true.mp (by simpa using hc), h⟩)

theorem withPrescaler_code {s : State} {i : TimerId} {p : Prescaler} (hp : (s.slots.get i).pre = p.code)
    (k : Prescaler → Result) : withPrescaler i s k = k p := by
  simp [withPrescaler, hp]

theorem withPrescaler_invalid {s : State} {i : TimerId} (hp : 5 ≤ (s.slots.get i).pre.toNat) (k : Prescaler → Result) :
    withPrescaler i s k = .next (s.answering .outOfBoundary) := by
  rw [withPrescaler, State.slot_eq, prescalerOf?_eq_none.mpr hp, State.returns_eq]

theorem withPrescaler_next {s t : State} {i : TimerId} {k : Prescaler → Result} (h : withPrescaler i s k = .next t) :
    t = s.answering .outOfBoundary ∨ ∃ p : Prescaler, (s.slots.get i).pre = p.code ∧ k p = .next t := by
  unfold withPrescaler at h
  split at h
  · exact .inl (State.returns_next h)
  · next p hp => exact .inr ⟨p, prescalerOf?_eq_some.mp hp, h⟩

theorem withEventTimer_eidx (i : TimerId) (k : TimerId → Result) : withEventTimer i.eidx k = k i := by
  simp [withEventTimer]

theorem withEventTimer_next {e : BitVec 2} {t : State} {k : TimerId → Result} (h : withEventTimer e k = .next t) :
    ∃ i : TimerId, e = i.eidx ∧ k i = .next t := by
  unfold withEventTimer at h
  split at h
  · cases h
  · next i hi => exact ⟨i, eventTimer?_eq_some.mp hi, h⟩

/-! ## Actions -/

/-- The enable action field by field (R119). -/
theorem State.doEnable_eq (s : State) (i : TimerId) (p : Prescaler) :
    s.doEnable i p =
      { s with
        slots := s.slots.set i { s.slots.get i with en := true }
        latches := s.latches.set i
          { s.latches.get i with ctrl := ctrlWithCs (s.latches.get i).ctrl ((s.cfg.timers.get i).cs.code p) } } := rfl

/-- Lazy initialisation of a stale table (R112). -/
theorem State.lazyInit_of_stale {s : State} (h : s.dbi = false) :
    s.lazyInit =
      { s with dbi := true, slots := { t0 := Slot.unclaimed, t1 := Slot.unclaimed, t2 := Slot.unclaimed } } := by
  rw [State.lazyInit, if_neg (by simp [h])]; rfl

theorem State.lazyInit_of_dbi {s : State} (h : s.dbi = true) : s.lazyInit = s := by
  rw [State.lazyInit, if_pos h]

/-- Lazy initialisation in one expression. -/
theorem State.lazyInit_eq (s : State) :
    s.lazyInit =
      { s with
        dbi := true
        slots := if s.dbi then s.slots else { t0 := Slot.unclaimed, t1 := Slot.unclaimed, t2 := Slot.unclaimed } } := by
  cases s with
  | mk cfg dbi slots => cases dbi <;> rfl

/-- The arm-write of DELAY field by field; the reload fits its latch (R146, R152). -/
theorem State.armDelay_eq (s : State) (i : TimerId) {plan : DelayPlan}
    (h : plan.reload ≤ (s.cfg.timers.get i).width.max) :
    s.armDelay i plan =
      { s with
        ctrs := s.ctrs.set i
          { s.ctrs.get i with
            need := BitVec.ofNat 32 plan.count
            cnt := if s.cfg.armResetsCounter then 0#32 else (s.ctrs.get i).cnt }
        latches := s.latches.set i
          { s.latches.get i with
            tload := if (s.slots.get i).mode = 0#3 then BitVec.ofNat 16 plan.reload else (s.latches.get i).tload
            ocr := if (s.slots.get i).mode = 0#3 then (s.latches.get i).ocr else BitVec.ofNat 16 plan.reload } } := by
  have hfit : (s.cfg.timers.get i).width.fit (BitVec.ofNat 16 plan.reload) = BitVec.ofNat 16 plan.reload := by
    apply Width.fit_eq_self
    have := (s.cfg.timers.get i).width.max_lt
    rw [BitVec.toNat_ofNat, Nat.mod_eq_of_lt (by omega)]; exact h
  simp only [State.armDelay, State.writeReload, State.slot_eq]
  split <;> simp [State.armCount, State.setTload, State.setOcr, State.setLatch, State.setCtr, *]

/-- The arm-write of GENPWM field by field; the threshold fits its latch (R172, R177). -/
theorem State.armPwm_eq (s : State) (i : TimerId) {th : Thresholds} (h : th.on ≤ (s.cfg.timers.get i).width.max) :
    s.armPwm i th =
      { s with
        ctrs := s.ctrs.set i { s.ctrs.get i with on := BitVec.ofNat 16 th.on, off := BitVec.ofNat 16 th.off, tgl := false }
        latches := s.latches.set i { s.latches.get i with ocr := BitVec.ofNat 16 th.on } } := by
  have hfit : (s.cfg.timers.get i).width.fit (BitVec.ofNat 16 th.on) = BitVec.ofNat 16 th.on := by
    apply Width.fit_eq_self
    have := (s.cfg.timers.get i).width.max_lt
    rw [BitVec.toNat_ofNat, Nat.mod_eq_of_lt (by omega)]; exact h
  simp [State.armPwm, State.setOcr, State.setLatch, State.setCtr, hfit]

/-! ## The derived phase (R194) and several operations in a row -/

theorem State.delayPhase_eq_armed {s : State} {i : TimerId} :
    s.delayPhase i = some .armed ↔ (s.slots.get i).en = true ∧ (s.ctrs.get i).need ≠ 0#32 := by
  unfold State.delayPhase
  cases (s.slots.get i).en <;> by_cases h : (s.ctrs.get i).need = 0#32 <;> simp [h]

/-- Which states have timer i Armed. -/
theorem State.phase_eq_armed {s : State} {i : TimerId} :
    s.phase i = some .armed ↔
      s.dbi = true ∧ (s.slots.get i).mode.toNat ≤ 1 ∧ (s.slots.get i).en = true ∧ (s.ctrs.get i).need ≠ 0#32 := by
  unfold State.phase
  cases hd : s.dbi
  · simp
  · cases hm : modeOf? (s.slots.get i).mode with
    | none => have := modeOf?_eq_none.mp hm; simp; omega
    | some m =>
      have hc := modeOf?_eq_some.mp hm
      cases m <;> cases (s.cfg.timers.get i).strategy <;>
        simp [hc, Mode.code, State.delayPhase_eq_armed, State.togglePhase]
      all_goals split <;> simp

@[simp] theorem execAll_nil (s : State) : execAll [] s = .next s := rfl

theorem execAll_cons {op : Instr} {s t : State} (h : exec op s = .next t) (ops : List Instr) :
    execAll (op :: ops) s = execAll ops t := by
  simp [execAll, h]

end Sys2Proof.Machine
end

