-- ==== Sys2Proof/Laws/Exec.lean ====
section
/-! SUPPORT. For each operation, once, everything it can do where it answers a next state: a code other than Success with
nothing written, the fault on a stale table, or its effect under the conditions that lead to it. -/

namespace Sys2Proof.Machine

/-! ## INIT -/

theorem initRecord?_eq_some {idx : BitVec 8} {iu : BitVec 2} {mode pre : BitVec 3} {cb : BitVec 16} {r : InitRecord} :
    initRecord? idx iu mode pre cb = some r ↔
      idx = r.timer.index ∧ iu = r.usage.code ∧ mode = r.mode.code ∧ pre = r.prescaler.code ∧ cb ≠ 0#16 := by
  constructor
  · intro h
    unfold initRecord? at h
    split at h
    · next i u m p hi hu hm hp =>
      split at h
      · cases h
      · cases h
        exact ⟨timerOf?_eq_some.mp hi, usageOf?_eq_some.mp hu, modeOf?_eq_some.mp hm, prescalerOf?_eq_some.mp hp, ‹_›⟩
    · cases h
  · rintro ⟨rfl, rfl, rfl, rfl, hcb⟩
    simp [initRecord?, hcb]

/-- The state an INIT leaves for a record it accepts (R110). -/
def initDone (s : State) (r : InitRecord) (cb : BitVec 16) : State :=
  ((s.lazyInit.initHardware r.timer r.usage r.mode).setSlot r.timer
    { idx := r.timer.index, mode := r.mode.code, pre := r.prescaler.code, en := false, cb := cb }).answering .success

theorem execInit_next {idx : BitVec 8} {iu : BitVec 2} {mode pre : BitVec 3} {cb : BitVec 16} {s t : State}
    (h : execInit idx iu mode pre cb s = .next t) :
    t = s.answering .unsupportedConfiguration ∨
    (∃ r : InitRecord, idx = r.timer.index ∧ s.dbi = true ∧ s.slots.get r.timer ≠ Slot.unclaimed ∧
      t = s.answering .alreadyInitialized) ∨
    ∃ r : InitRecord, idx = r.timer.index ∧ cb ≠ 0#16 ∧ (s.dbi = true → s.slots.get r.timer = Slot.unclaimed) ∧
      t = initDone s r cb := by
  unfold execInit at h
  split at h
  · exact .inl (State.returns_next h)
  · next r hr =>
    obtain ⟨rfl, rfl, rfl, rfl, hcb⟩ := initRecord?_eq_some.mp hr
    right
    split at h
    · next hc =>
      left
      have hd : s.dbi = true := by
        by_contra hd
        rw [State.lazyInit_of_stale (by simpa using hd)] at hc
        simp [Slot.claimed_eq_true] at hc
      rw [State.lazyInit_of_dbi hd] at h hc
      exact ⟨r, rfl, hd, Slot.claimed_eq_true.mp hc, State.returns_next h⟩
    · next hc =>
      right
      refine ⟨r, rfl, hcb, fun hd => ?_, State.returns_next h⟩
      rw [State.lazyInit_of_dbi hd] at hc
      exact Slot.claimed_eq_false.mp (by simpa using hc)

/-! ## DEINIT, ENABLE, DISABLE -/

theorem execDeinit_next {idx : BitVec 8} {s t : State} (h : execDeinit idx s = .next t) :
    (∃ c, c ∈ [Status.invalidArguments, .notInitialized] ∧ t = s.answering c) ∨ (s.dbi = false ∧ t = s.stale) ∨
    ∃ i : TimerId, idx = i.index ∧ s.dbi = true ∧ s.slots.get i ≠ Slot.unclaimed ∧
      t = (s.unclaim i).answering .success := by
  obtain rfl | ⟨i, rfl, h'⟩ := withIndex_next h
  · exact .inl ⟨_, by simp, rfl⟩
  · clear h; rename' h' => h
    rcases withClaimed_next h with h | rfl | ⟨hd, hc, h⟩
    · exact .inr (.inl h)
    · exact .inl ⟨_, by simp, rfl⟩
    · exact .inr (.inr ⟨i, rfl, hd, hc, State.returns_next h⟩)

theorem execEnable_next {idx : BitVec 8} {s t : State} (h : execEnable idx s = .next t) :
    (∃ c, c ∈ [Status.invalidArguments, .notInitialized, .outOfBoundary] ∧ t = s.answering c) ∨
    (s.dbi = false ∧ t = s.stale) ∨
    ∃ (i : TimerId) (p : Prescaler), idx = i.index ∧ s.dbi = true ∧ s.slots.get i ≠ Slot.unclaimed ∧
      (s.slots.get i).en = false ∧ (s.slots.get i).pre = p.code ∧ t = (s.doEnable i p).answering .success := by
  obtain rfl | ⟨i, rfl, h'⟩ := withIndex_next h
  · exact .inl ⟨_, by simp, rfl⟩
  · clear h; rename' h' => h
    rcases withClaimed_next h with h | rfl | ⟨hd, hc, h⟩
    · exact .inr (.inl h)
    · exact .inl ⟨_, by simp, rfl⟩
    · split at h
      · exact .inl ⟨_, by simp, State.returns_next h⟩
      · next hen =>
        rcases withPrescaler_next h with rfl | ⟨p, hp, h⟩
        · exact .inl ⟨_, by simp, rfl⟩
        · exact .inr (.inr ⟨i, p, rfl, hd, hc, by simpa using hen, hp, State.returns_next h⟩)

theorem execDisable_next {idx : BitVec 8} {s t : State} (h : execDisable idx s = .next t) :
    (∃ c, c ∈ [Status.invalidArguments, .notInitialized, .outOfBoundary] ∧ t = s.answering c) ∨
    (s.dbi = false ∧ t = s.stale) ∨
    ∃ i : TimerId, idx = i.index ∧ s.dbi = true ∧ (s.slots.get i).en = true ∧
      t = ((s.setCs i 0b000#3).setEnabled i false).answering .success := by
  obtain rfl | ⟨i, rfl, h'⟩ := withIndex_next h
  · exact .inl ⟨_, by simp, rfl⟩
  · clear h; rename' h' => h
    rcases withClaimed_next h with h | rfl | ⟨hd, hc, h⟩
    · exact .inr (.inl h)
    · exact .inl ⟨_, by simp, rfl⟩
    · split at h
      · exact .inl ⟨_, by simp, State.returns_next h⟩
      · next hen => exact .inr (.inr ⟨i, rfl, hd, by simpa using hen, State.returns_next h⟩)

/-! ## DELAY, GENPWM -/

theorem execDelay_next {idx : BitVec 8} {ms : BitVec 32} {s t : State} (h : execDelay idx ms s = .next t) :
    (∃ c, c ∈ [Status.invalidArguments, .notInitialized, .unsupportedFeature, .outOfBoundary] ∧ t = s.answering c) ∨
    (s.dbi = false ∧ t = s.stale) ∨
    ∃ (i : TimerId) (p : Prescaler), idx = i.index ∧ ms ≠ 0#32 ∧ s.dbi = true ∧ (s.slots.get i).mode.toNat ≤ 1 ∧
      (s.slots.get i).en = false ∧ (s.slots.get i).pre = p.code ∧
      0 < overflowTime s.cfg.fcpu p (s.cfg.timers.get i).width ∧
      (calcDelay s.cfg.fcpu p (s.cfg.timers.get i).width ms.toNat).count ≤ 2 ^ 32 - 1 ∧
      t = ((s.armDelay i (calcDelay s.cfg.fcpu p (s.cfg.timers.get i).width ms.toNat)).doEnable i p).answering
        .success := by
  obtain rfl | ⟨i, rfl, h'⟩ := withIndex_next h
  · exact .inl ⟨_, by simp, rfl⟩
  · clear h; rename' h' => h
    split at h
    · exact .inl ⟨_, by simp, State.returns_next h⟩
    · next hms =>
      rcases withClaimed_next h with h | rfl | ⟨hd, hc, h⟩
      · exact .inr (.inl h)
      · exact .inl ⟨_, by simp, rfl⟩
      · split at h
        · exact .inl ⟨_, by simp, State.returns_next h⟩
        · next hm =>
          split at h
          · exact .inl ⟨_, by simp, State.returns_next h⟩
          · next hen =>
            rcases withPrescaler_next h with rfl | ⟨p, hp, h⟩
            · exact .inl ⟨_, by simp, rfl⟩
            · split at h
              · cases h
              · next hT =>
                dsimp only at h
                split at h
                · exact .inl ⟨_, by simp, State.returns_next h⟩
                · next hcount =>
                  exact .inr (.inr ⟨i, p, rfl, hms, hd, delayMode?_iff.mp (by simpa using hm), by simpa using hen, hp,
                    Nat.pos_of_ne_zero hT, Nat.le_of_not_lt hcount, State.returns_next h⟩)

theorem execGenpwm_next {idx : BitVec 8} {duty : BitVec 8} {s t : State} (h : execGenpwm idx duty s = .next t) :
    (∃ c, c ∈ [Status.invalidArguments, .notInitialized, .unsupportedFeature, .outOfBoundary] ∧ t = s.answering c) ∨
    (s.dbi = false ∧ t = s.stale) ∨
    ∃ (i : TimerId) (p : Prescaler), idx = i.index ∧ 1 ≤ duty.toNat ∧ duty.toNat ≤ 99 ∧ s.dbi = true ∧
      2 ≤ (s.slots.get i).mode.toNat ∧ (s.slots.get i).mode.toNat ≤ 3 ∧ (s.slots.get i).en = false ∧
      (s.slots.get i).pre = p.code ∧
      t = ((s.armPwm i (calcPwm duty.toNat (s.cfg.timers.get i).width)).doEnable i p).answering .success := by
  obtain rfl | ⟨i, rfl, h'⟩ := withIndex_next h
  · exact .inl ⟨_, by simp, rfl⟩
  · clear h; rename' h' => h
    split at h
    · exact .inl ⟨_, by simp, State.returns_next h⟩
    · next hduty =>
      rcases withClaimed_next h with h | rfl | ⟨hd, hc, h⟩
      · exact .inr (.inl h)
      · exact .inl ⟨_, by simp, rfl⟩
      · split at h
        · exact .inl ⟨_, by simp, State.returns_next h⟩
        · next hm =>
          split at h
          · exact .inl ⟨_, by simp, State.returns_next h⟩
          · next hen =>
            rcases withPrescaler_next h with rfl | ⟨p, hp, h⟩
            · exact .inl ⟨_, by simp, rfl⟩
            · have hdu := dutyLegal_iff.mp (by simpa using hduty)
              have hmo := pwmMode?_iff.mp (by simpa using hm)
              exact .inr (.inr ⟨i, p, rfl, hdu.1, hdu.2, hd, hmo.1, hmo.2, by simpa using hen, hp, State.returns_next h⟩)

/-! ## Events -/

/-- The count path always ends in this state (R192, R193). -/
theorem countPath_eq (i : TimerId) (s : State) :
    countPath i s = .next
      { s with
        ctrs := s.ctrs.set i
          { s.ctrs.get i with
            cnt := if (s.ctrs.get i).cnt + 1#32 = (s.ctrs.get i).need then 0#32 else (s.ctrs.get i).cnt + 1#32 }
        out :=
          { status := none
            fire :=
              if (s.ctrs.get i).cnt + 1#32 = (s.ctrs.get i).need ∧ (s.slots.get i).cb ≠ 0#16 then
                some { handle := (s.slots.get i).cb, timer := i }
              else none
            toggle := none } } := by
  unfold countPath State.emits State.firePulse State.setCtr
  simp only [State.ctr_eq, State.slot_eq]
  by_cases hn : (s.ctrs.get i).cnt + 1#32 = (s.ctrs.get i).need
  · by_cases hcb : (s.slots.get i).cb = 0#16 <;> simp [hn, hcb]
  · simp [hn]

/-- The toggle path always ends in this state (R195). -/
theorem togglePath_eq (i : TimerId) (pin : GpioPin) (s : State) :
    togglePath i pin s = .next
      { s with
        ctrs := s.ctrs.set i { s.ctrs.get i with tgl := !(s.ctrs.get i).tgl }
        latches := s.latches.set i
          { s.latches.get i with
            ocr := (s.cfg.timers.get i).width.fit
              (if (s.ctrs.get i).tgl then (s.ctrs.get i).on else (s.ctrs.get i).off) }
        out := { status := none, fire := none, toggle := some pin } } := by
  unfold togglePath State.emits State.setCtr State.setOcr State.setLatch
  simp only [State.ctr_eq, State.latch_eq, State.timer_eq]
  split <;> simp [*]

/-- Everything an event step can do (R190, R191). -/
theorem eventStep_next {i : TimerId} {k : EventKind} {s t : State} (h : eventStep i k s = .next t) :
    (s.dbi = false ∧ t = s.stale) ∨ (s.dbi = true ∧ countPath i s = .next t) ∨
    ∃ pin, s.dbi = true ∧ k = .compare ∧ (s.cfg.timers.get i).strategy = .emulation pin ∧
      2 ≤ (s.slots.get i).mode.toNat ∧ (s.slots.get i).mode.toNat ≤ 3 ∧ togglePath i pin s = .next t := by
  unfold eventStep at h
  split at h
  · exact .inl ⟨‹_›, State.raise_next h⟩
  · next hd =>
    right
    have hd : s.dbi = true := by simpa using hd
    split at h
    · next pin hs =>
      split at h
      · next hm =>
        have hmo := pwmMode?_iff.mp hm
        exact .inr ⟨pin, hd, rfl, hs, hmo.1, hmo.2, h⟩
      · exact .inl ⟨hd, h⟩
    · exact .inl ⟨hd, h⟩
    · exact .inl ⟨hd, h⟩

/-- An event step on a stale table raises the fault (R190). -/
theorem eventStep_stale {s : State} (hd : s.dbi = false) (i : TimerId) (k : EventKind) :
    eventStep i k s = .next s.stale := by
  unfold eventStep
  rw [if_pos hd, State.raise_eq]

/-- An event step on an initialised table with a timer under the native strategy, or a slot in no PWM mode, or of overflow
kind, takes the count path (R191). -/
theorem eventStep_count {i : TimerId} {k : EventKind} {s : State} (hd : s.dbi = true)
    (h : k = .overflow ∨ (s.cfg.timers.get i).strategy = .native ∨ (s.slots.get i).mode.toNat ≤ 1 ∨
      4 ≤ (s.slots.get i).mode.toNat) : eventStep i k s = countPath i s := by
  unfold eventStep
  rw [if_neg (by simp [hd])]
  split
  · next pin hs =>
    rw [if_neg]
    rw [State.slot_eq, pwmMode?_iff]
    rw [State.timer_eq] at hs
    rcases h with h | h | h | h
    · cases h
    · rw [hs] at h; cases h
    · omega
    · omega
  · rfl
  · rfl

theorem eventStep_toggle {i : TimerId} {s : State} {pin : GpioPin} (hd : s.dbi = true)
    (hs : (s.cfg.timers.get i).strategy = .emulation pin) (h2 : 2 ≤ (s.slots.get i).mode.toNat)
    (h3 : (s.slots.get i).mode.toNat ≤ 3) : eventStep i .compare s = togglePath i pin s := by
  have hm : pwmMode? (s.slots.get i).mode = true := pwmMode?_iff.mpr ⟨h2, h3⟩
  simp [eventStep, hd, hs, hm]

theorem execEvtOvf_next {e : BitVec 2} {s t : State} (h : execEvtOvf e s = .next t) :
    ∃ i : TimerId, e = i.eidx ∧ eventStep i .overflow s = .next t := withEventTimer_next h

theorem execEvtCmp_next {e : BitVec 2} {s t : State} (h : execEvtCmp e s = .next t) :
    ∃ i : TimerId, e = i.eidx ∧ eventStep i .compare s = .next t := withEventTimer_next h

end Sys2Proof.Machine
end

