-- ==== Sys2Proof/Laws/Effect.lean ====
section
/-! SUPPORT. In one place, everything an operation can do where it answers a next state, over all operations at once; and
the fields no operation writes. A proof about every operation is a case analysis of `Effect`. -/

namespace Sys2Proof.Machine

/-- The ways in which operation `op` takes state `s` to a next state. -/
inductive Effect (s : State) : Instr → State → Prop where
  /-- A code other than Success, with nothing written (R221). -/
  | failed {op : Instr} (c : Status) (hc : c ≠ .success) : Effect s op (s.answering c)
  /-- The fault on a stale table (R224). -/
  | stale {op : Instr} (hd : s.dbi = false) : Effect s op s.stale
  /-- INIT of a slot that is Unclaimed, or of a stale table (R110). -/
  | init (r : InitRecord) (cb : BitVec 16) (hcb : cb ≠ 0#16)
      (hu : s.dbi = true → s.slots.get r.timer = Slot.unclaimed) :
      Effect s (.init r.timer.index r.usage.code r.mode.code r.prescaler.code cb) (initDone s r cb)
  /-- DEINIT of a Claimed slot (R120). -/
  | deinit (i : TimerId) (hd : s.dbi = true) (hc : s.slots.get i ≠ Slot.unclaimed) :
      Effect s (.deinit i.index) ((s.unclaim i).answering .success)
  /-- ENABLE of a disabled Claimed slot (R124). -/
  | enable (i : TimerId) (p : Prescaler) (hd : s.dbi = true) (hc : s.slots.get i ≠ Slot.unclaimed)
      (he : (s.slots.get i).en = false) (hp : (s.slots.get i).pre = p.code) :
      Effect s (.enable i.index) ((s.doEnable i p).answering .success)
  /-- DISABLE of an enabled slot (R128). -/
  | disable (i : TimerId) (hd : s.dbi = true) (he : (s.slots.get i).en = true) :
      Effect s (.disable i.index) (((s.setCs i 0b000#3).setEnabled i false).answering .success)
  /-- DELAY on a disabled Overflow or Compare-Match slot, the plan fitting its latch (R150). -/
  | delay (i : TimerId) (p : Prescaler) (ms : BitVec 32) (hd : s.dbi = true) (hm : (s.slots.get i).mode.toNat ≤ 1)
      (he : (s.slots.get i).en = false) (hp : (s.slots.get i).pre = p.code)
      (hr : (calcDelay s.cfg.fcpu p (s.cfg.timers.get i).width ms.toNat).reload ≤ (s.cfg.timers.get i).width.max) :
      Effect s (.delay i.index ms)
        (((s.armDelay i (calcDelay s.cfg.fcpu p (s.cfg.timers.get i).width ms.toNat)).doEnable i p).answering .success)
  /-- GENPWM on a disabled PWM or Phase-Correct-PWM slot, the thresholds fitting its latch (R176). -/
  | genpwm (i : TimerId) (p : Prescaler) (duty : BitVec 8) (hd : s.dbi = true) (h2 : 2 ≤ (s.slots.get i).mode.toNat)
      (h3 : (s.slots.get i).mode.toNat ≤ 3) (he : (s.slots.get i).en = false) (hp : (s.slots.get i).pre = p.code)
      (ht : duty.toNat ≤ 99) :
      Effect s (.genpwm i.index duty)
        (((s.armPwm i (calcPwm duty.toNat (s.cfg.timers.get i).width)).doEnable i p).answering .success)
  /-- An event on the count path (R192). -/
  | count {op : Instr} {t : State} (i : TimerId) (hd : s.dbi = true) (hop : op = .evtOvf i.eidx ∨ op = .evtCmp i.eidx)
      (h : countPath i s = .next t) : Effect s op t
  /-- A compare event on the toggle path (R195). -/
  | toggle {t : State} (i : TimerId) (pin : GpioPin) (hd : s.dbi = true)
      (hs : (s.cfg.timers.get i).strategy = .emulation pin) (h2 : 2 ≤ (s.slots.get i).mode.toNat)
      (h3 : (s.slots.get i).mode.toNat ≤ 3) (h : togglePath i pin s = .next t) : Effect s (.evtCmp i.eidx) t

/-- Everything INIT can do, as an effect: the arguments of an INIT that passes its checks are codes (R111). -/
theorem execInit_effect {idx : BitVec 8} {iu : BitVec 2} {mode pre : BitVec 3} {cb : BitVec 16} {s t : State}
    (h : execInit idx iu mode pre cb s = .next t) : Effect s (.init idx iu mode pre cb) t := by
  cases hr : initRecord? idx iu mode pre cb with
  | none =>
    rw [execInit, hr] at h
    rw [State.returns_next h]
    exact .failed _ (by decide)
  | some r =>
    obtain ⟨rfl, rfl, rfl, rfl, hcb⟩ := initRecord?_eq_some.mp hr
    unfold execInit at h
    simp only [hr] at h
    split at h
    · next hc =>
      have hd : s.dbi = true := by
        by_contra hd
        rw [State.lazyInit_of_stale (by simpa using hd)] at hc
        simp [Slot.claimed_eq_true] at hc
      rw [State.lazyInit_of_dbi hd] at h
      rw [State.returns_next h]
      exact .failed _ (by decide)
    · next hc =>
      rw [State.returns_next h]
      refine .init r cb hcb fun hd => ?_
      rw [State.lazyInit_of_dbi hd] at hc
      exact Slot.claimed_eq_false.mp (by simpa using hc)

/-- Everything any operation can do where it answers a next state. -/
theorem exec_effect {op : Instr} {s t : State} (h : exec op s = .next t) : Effect s op t := by
  cases op with
  | init idx iu mode pre cb => exact execInit_effect h
  | deinit idx =>
    rcases execDeinit_next h with ⟨c, hc, rfl⟩ | ⟨hd, rfl⟩ | ⟨i, rfl, hd, hc, rfl⟩
    · exact .failed c (by rintro rfl; simp at hc)
    · exact .stale hd
    · exact .deinit i hd hc
  | enable idx =>
    rcases execEnable_next h with ⟨c, hc, rfl⟩ | ⟨hd, rfl⟩ | ⟨i, p, rfl, hd, hc, he, hp, rfl⟩
    · exact .failed c (by rintro rfl; simp at hc)
    · exact .stale hd
    · exact .enable i p hd hc he hp
  | disable idx =>
    rcases execDisable_next h with ⟨c, hc, rfl⟩ | ⟨hd, rfl⟩ | ⟨i, rfl, hd, he, rfl⟩
    · exact .failed c (by rintro rfl; simp at hc)
    · exact .stale hd
    · exact .disable i hd he
  | delay idx ms =>
    rcases execDelay_next h with ⟨c, hc, rfl⟩ | ⟨hd, rfl⟩ | ⟨i, p, rfl, -, hd, hm, he, hp, -, -, rfl⟩
    · exact .failed c (by rintro rfl; simp at hc)
    · exact .stale hd
    · exact .delay i p ms hd hm he hp (calcDelay_reload_le _ _ _ _)
  | genpwm idx duty =>
    rcases execGenpwm_next h with ⟨c, hc, rfl⟩ | ⟨hd, rfl⟩ | ⟨i, p, rfl, -, h99, hd, h2, h3, he, hp, rfl⟩
    · exact .failed c (by rintro rfl; simp at hc)
    · exact .stale hd
    · exact .genpwm i p duty hd h2 h3 he hp h99
  | evtOvf e =>
    obtain ⟨i, rfl, h'⟩ := execEvtOvf_next h
    rcases eventStep_next h' with ⟨hd, rfl⟩ | ⟨hd, h⟩ | ⟨_, _, hk, _⟩
    · exact .stale hd
    · exact .count i hd (.inl rfl) h
    · cases hk
  | evtCmp e =>
    obtain ⟨i, rfl, h'⟩ := execEvtCmp_next h
    rcases eventStep_next h' with ⟨hd, rfl⟩ | ⟨hd, h⟩ | ⟨pin, hd, -, hs, h2, h3, h⟩
    · exact .stale hd
    · exact .count i hd (.inr rfl) h
    · exact .toggle i pin hd hs h2 h3 h

/-- What no operation writes: the parameters, the input, the word in progress; DBI is never cleared, and FAULT is written
only by the fault on a stale table. -/
theorem exec_frame {op : Instr} {s t : State} (h : exec op s = .next t) :
    t.cfg = s.cfg ∧ t.inbox = s.inbox ∧ t.current = s.current ∧ (s.dbi = true → t.dbi = true) ∧
      (t.fault = s.fault ∨ s.dbi = false ∧ t = s.stale) := by
  cases exec_effect h with
  | failed c hc => simp
  | stale hd => simp_all
  | init r cb hcb hu =>
    rw [initDone, State.lazyInit_eq]
    unfold State.initHardware
    cases r.usage <;> simp
  | deinit i hd hc => simp_all
  | enable i p hd hc he hp => simp_all [State.doEnable]
  | disable i hd he => simp_all
  | delay i p ms hd hm he hp hr => rw [State.armDelay_eq _ _ hr]; simp [State.doEnable]
  | genpwm i p duty hd h2 h3 he hp ht => rw [State.armPwm_eq _ _ (calcPwm_on_le ht _)]; simp [State.doEnable]
  | count i hd hop h => rw [countPath_eq] at h; cases h; simp
  | toggle i pin hd hs h2 h3 h => rw [togglePath_eq] at h; cases h; simp

end Sys2Proof.Machine
end

