-- ==== Sys2Proof/Laws/PerInstr.lean ====
section
/-! SUPPORT. The family TableRow: the word the encoder gives an operation matches its row of the opcode table
(`word & mask == match`, R93), one lemma per constructor. -/

namespace Sys2Proof.Laws.TableRow

/-- A word is one of a CMD64 row with the given match value. -/
def CommandRow (m : CmdWord) (w : PortWord) : Prop := ∃ v, w = .command v ∧ v &&& 0xF#64 = m

/-- A word is one of an EVT8 row with the given match value. -/
def EventRow (m : EvtWord) (w : PortWord) : Prop := ∃ v, w = .event v ∧ v &&& 0x04#8 = m

/-- The encoder's word for an operation matches the operation's row. -/
def Statement : Instr → Prop
  | .init idx iu mode pre cb => CommandRow 0x0#64 (encode (.init idx iu mode pre cb))
  | .deinit idx => CommandRow 0x1#64 (encode (.deinit idx))
  | .enable idx => CommandRow 0x2#64 (encode (.enable idx))
  | .disable idx => CommandRow 0x3#64 (encode (.disable idx))
  | .delay idx ms => CommandRow 0x4#64 (encode (.delay idx ms))
  | .genpwm idx duty => CommandRow 0x5#64 (encode (.genpwm idx duty))
  | .evtOvf eidx => EventRow 0x00#8 (encode (.evtOvf eidx))
  | .evtCmp eidx => EventRow 0x04#8 (encode (.evtCmp eidx))

theorem init (idx : BitVec 8) (iu : BitVec 2) (mode pre : BitVec 3) (cb : BitVec 16) :
    Statement (.init idx iu mode pre cb) := ⟨_, rfl, packCommand_op _ _ _⟩

theorem deinit (idx : BitVec 8) : Statement (.deinit idx) := ⟨_, rfl, packCommand_op _ _ _⟩

theorem enable (idx : BitVec 8) : Statement (.enable idx) := ⟨_, rfl, packCommand_op _ _ _⟩

theorem disable (idx : BitVec 8) : Statement (.disable idx) := ⟨_, rfl, packCommand_op _ _ _⟩

theorem delay (idx : BitVec 8) (ms : BitVec 32) : Statement (.delay idx ms) := ⟨_, rfl, packCommand_op _ _ _⟩

theorem genpwm (idx : BitVec 8) (duty : BitVec 8) : Statement (.genpwm idx duty) := ⟨_, rfl, packCommand_op _ _ _⟩

theorem evtOvf (eidx : BitVec 2) : Statement (.evtOvf eidx) := ⟨_, rfl, by revert eidx; decide⟩

theorem evtCmp (eidx : BitVec 2) : Statement (.evtCmp eidx) := ⟨_, rfl, by revert eidx; decide⟩

end Sys2Proof.Laws.TableRow
end

