-- ==== Sys2Proof/Laws/Step.lean ====
section
/-! SUPPORT. Once, everything a step can do where it answers a next state; and what is left to show of a property that
every step keeps. -/

namespace Sys2Proof.Machine

/-- The state an operation is executed in when it is taken from the port input `p`. -/
def State.taking (s : State) (p : PortInput) (rest : List Input) : State := { s with current := p.word?, inbox := rest }

theorem step_next {s t : State} (h : step s = .next t) :
    s.cfg.legal = true ∧
    ((∃ rest, s.inbox = .reset :: rest ∧ t = { State.afterReset s.cfg with inbox := rest }) ∨
     (s.inbox = [] ∧ s.fault = none ∧ t = { s with out := Outputs.none }) ∨
     (∃ p rest, s.inbox = .port p :: rest ∧ s.fault = none ∧ decode p = .reserved ∧
       t = (s.taking p rest).answering .outOfBoundary) ∨
     (∃ p rest i, s.inbox = .port p :: rest ∧ s.fault = none ∧ decode p = .instr i ∧ s.admits i = true ∧
       exec i (s.taking p rest) = .next t)) := by
  unfold step nextAction at h
  split at h
  · next i u ha =>
    split at ha
    · next hl =>
      unfold takeInput at ha
      split at ha
      · cases ha
      · cases ha
      · next p rest hin hf =>
        unfold present at ha
        split at ha
        · next j hd =>
          split at ha
          · next had => cases ha; exact ⟨hl, .inr (.inr (.inr ⟨p, rest, _, hin, hf, hd, had, h⟩))⟩
          · cases ha
        · cases ha
        · cases ha
      · cases ha
    · cases ha
  · next u ha =>
    split at ha
    · next hl =>
      unfold takeInput at ha
      split at ha
      · cases ha
      · cases ha
      · next p rest hin hf =>
        unfold present at ha
        split at ha
        · split at ha <;> cases ha
        · next hd =>
          cases ha
          exact ⟨hl, .inr (.inr (.inl ⟨p, rest, hin, hf, hd, State.returns_next h⟩))⟩
        · cases ha
      · cases ha
    · cases ha
  · next u ha =>
    cases h
    split at ha
    · next hl =>
      unfold takeInput at ha
      split at ha
      · next rest hin => cases ha; exact ⟨hl, .inl ⟨rest, hin, rfl⟩⟩
      · cases ha
      · next p rest hin hf =>
        unfold present at ha
        split at ha
        · split at ha <;> cases ha
        · cases ha
        · cases ha
      · next hin hf => cases ha; exact ⟨hl, .inr (.inl ⟨hin, hf, rfl⟩)⟩
    · cases ha
  · cases h
  · cases h

/-! What a step does, by what it finds. -/

theorem step_illegal {s : State} (h : s.cfg.legal = false) : step s = .refused .illegalConfig := by
  simp [step, nextAction, h]

theorem step_reset {s : State} {rest : List Input} (hl : s.cfg.legal = true) (hin : s.inbox = .reset :: rest) :
    step s = .next { State.afterReset s.cfg with inbox := rest } := by
  simp [step, nextAction, takeInput, hl, hin]

theorem step_port {s : State} {p : PortInput} {rest : List Input} (hl : s.cfg.legal = true) (hf : s.fault = none)
    (hin : s.inbox = .port p :: rest) :
    step s =
      match decode p with
      | .instr i => if s.admits i then exec i (s.taking p rest) else .refused .eventNotAdmitted
      | .reserved => .next ((s.taking p rest).answering .outOfBoundary)
      | .rejected r => .refused (Reject.refusal r) := by
  have hn : nextAction s = present s p rest := by simp [nextAction, takeInput, hl, hf, hin]
  unfold step
  rw [hn]
  unfold present
  cases hd : decode p with
  | instr i => simp only; by_cases ha : s.admits i = true <;> simp [ha, State.taking]
  | reserved => rfl
  | rejected r => rfl

/-! ## A property that every step keeps -/

/-- A property of the block is kept by every step if it holds after reset, depends neither on the outputs nor on the input,
and every operation keeps it; an operation runs only in a block without a fault, and an event only with GIE set (R230). -/
theorem step_keeps {I : State → Prop}
    (hreset : ∀ (cfg : Config) (rest : List Input), I { State.afterReset cfg with inbox := rest })
    (hout : ∀ (s : State) (o : Outputs), I s → I { s with out := o })
    (htake : ∀ (s : State) (p : PortInput) (rest : List Input), I s → I (s.taking p rest))
    (hexec : ∀ (op : Instr) (s t : State), exec op s = .next t → s.fault = none →
      (∀ e, op = .evtOvf e ∨ op = .evtCmp e → s.gie = true) → I s → I t)
    {s t : State} (hi : I s) (h : step s = .next t) : I t := by
  obtain ⟨-, ⟨rest, -, rfl⟩ | ⟨-, -, rfl⟩ | ⟨p, rest, -, -, -, rfl⟩ | ⟨p, rest, i, -, hf, -, ha, hx⟩⟩ := step_next h
  · exact hreset _ _
  · exact hout _ _ hi
  · exact hout _ _ (htake _ _ _ hi)
  · refine hexec _ _ _ hx hf (fun e hie => ?_) (htake _ _ _ hi)
    show s.gie = true
    rcases hie with rfl | rfl <;> simp only [State.admits] at ha <;> split at ha <;> simp [State.admitted] at ha <;>
      simp [ha]

end Sys2Proof.Machine
end

