-- ==== Sys2Proof/Tests/Slice0.lean ====
section
/-! SUPPORT. The model's own tests: the well-formedness smoke test, decoding of words written out from the spec, a few
steps against spec/95_test_vectors.md, and for every statement with hypotheses a witness that meets them. -/

namespace Sys2Proof.Tests

open Sys2Proof.Machine

/-! ## Helpers: small states and looking at an outcome -/

/-- The outcome is a next state with the property `p`. -/
def after (o : Result) (p : State → Bool) : Bool :=
  match o with
  | .next t => p t
  | .fault _ => false
  | .refused _ => false

/-- The outcome is this refusal. -/
def refusedAs (o : Result) (r : Refusal) : Bool :=
  match o with
  | .next _ => false
  | .fault _ => false
  | .refused q => q == r

/-- A block after reset with an initialised table. -/
def table : State := { State.reset with dbi := true, slots := { t0 := .unclaimed, t1 := .unclaimed, t2 := .unclaimed } }

/-- A block with an initialised table and one slot claimed, or written with whatever is given. -/
def holding (i : TimerId) (v : Slot) : State := table.setSlot i v

/-- A block with one slot claimed and that timer's counters as given. -/
def counting (i : TimerId) (v : Slot) (need cnt : Count) : State :=
  (holding i v).setCtr i { need := need, cnt := cnt, on := 0#16, off := 0#16, tgl := false }

/-- The slot of INIT t0, ovf, irq, /8, cb=1 (P1). -/
def ovf0 : Slot := { idx := 0#8, mode := 0#3, pre := 1#3, en := false, cb := 1#16 }

/-- The slot of INIT t0, ovf, irq, /1, cb=1. -/
def fast0 : Slot := { ovf0 with pre := 0#3 }

/-- The slot of INIT t1, ctc, irq, /64, cb=2 (P2). -/
def ctc1 : Slot := { idx := 1#8, mode := 1#3, pre := 2#3, en := false, cb := 2#16 }

/-- The slot of INIT t2, pwm, irq, /1, cb=3 (P3). -/
def pwm2 : Slot := { idx := 2#8, mode := 2#3, pre := 0#3, en := false, cb := 3#16 }

/-- The slot of INIT t1, pcpwm, irq, /256, cb=9 (P7). -/
def pcpwm1 : Slot := { idx := 1#8, mode := 3#3, pre := 3#3, en := false, cb := 9#16 }

/-- The same slot, enabled. -/
def running (v : Slot) : Slot := { v with en := true }

/-- A pin. -/
def pin : GpioPin := { port := 1, pin := 3 }

/-- The default parameters but PWM_STRATEGY(2) = Emulation (P3). -/
def emulating : Config :=
  { Config.default with timers := { Config.default.timers with t2 := { TimerConfig.ofWidth .w8 with strategy := .emulation pin } } }

/-- Timer 2 in an emulated PWM after GENPWM t2, 50, in the phase given (P3). -/
def toggling (tgl : Bool) : State :=
  { (holding .t2 (running pwm2)) with
    cfg := emulating
    ctrs := State.reset.ctrs.set .t2 { need := 0#32, cnt := 0#32, on := 127#16, off := 128#16, tgl := tgl }
    latches := State.reset.latches.set .t2 { ctrl := 0x19#8, ocr := 127#16, tload := 0#16, ie := 0b10#2 } }

/-- A block with these inputs to come. -/
def given (s : State) (inputs : List Input) : State := { s with inbox := inputs }

/-- A command word on its port. -/
def cmd (w : CmdWord) : Input := .port (.command (bytesOfCommand w))

/-- An event word on its port. -/
def evt (w : EvtWord) : Input := .port (.event w)

/-- A block faulted by a command before any INIT (P5). -/
def faulted : State := { State.reset with fault := some { reason := .staleTable, word := some (.command 2#64) } }

/-- Parameters whose clock is too fast for a divisor of 1 at 8 bits (R11). -/
def tooFast : Config := { Config.default with fcpu := 250001000 }

/-! ## Well-formedness: the one check there is refuses an ill-formed event of each kind (R90, R91) -/

theorem test_smoke_evtOvf_3_ill_formed : (Instr.evtOvf 3#2).wellFormed = false := by decide

theorem test_smoke_evtCmp_3_ill_formed : (Instr.evtCmp 3#2).wellFormed = false := by decide

theorem test_smoke_events_of_timers_well_formed :
    (Instr.evtOvf 0#2).wellFormed = true ∧ (Instr.evtCmp 2#2).wellFormed = true := by decide

/-! ## Decoding: words written out from R80 to R90 (95 sections 2.7 and 3; each line 63..16 operands, 15..8 IDX, 7..4, OP) -/

/-- P2 line 1: CB = 2, PRE = 2, MODE = 1, IU = 0, IDX = 1, OP = 0. -/
theorem test_decode_init :
    decodeWord (.command
      (0b000000000000000000000000#24 ++ 0b0000000000000010#16 ++ 0b010#3 ++ 0b001#3 ++ 0b00#2 ++ 0b00000001#8 ++
        0b0000#4 ++ 0b0000#4)) = .instr (.init 1#8 0#2 1#3 2#3 2#16) ∧
    decodeWord (.command 0x0000000002440100#64) = .instr (.init 1#8 0#2 1#3 2#3 2#16) := by decide

/-- P7 line 1: every INIT field different. -/
theorem test_decode_init_pcpwm : decodeWord (.command 0x00000000096C0100#64) = .instr (.init 1#8 0#2 3#3 3#3 9#16) := by
  decide

/-- P4 line 14. -/
theorem test_decode_deinit :
    decodeWord (.command (0#48 ++ 0b00000010#8 ++ 0b0000#4 ++ 0b0001#4)) = .instr (.deinit 2#8) := by decide

/-- 95 section 2.7: bits 7:4 are ignored. -/
theorem test_decode_enable : decodeWord (.command 0x00000000000001F2#64) = .instr (.enable 1#8) := by decide

/-- 95 section 2.7: bits 63:16 are ignored. -/
theorem test_decode_disable : decodeWord (.command 0xFFFF000000000103#64) = .instr (.disable 1#8) := by decide

/-- R85: MS is bits 47:16, all 32 of them, and bits 63:48 are ignored; P2 line 2. -/
theorem test_decode_delay :
    decodeWord (.command 0xFFFF8000000100F4#64) = .instr (.delay 0#8 0x80000001#32) ∧
    decodeWord (.command 0x0000000003E80104#64) = .instr (.delay 1#8 1000#32) := by decide

/-- P4 lines 8 and 7. -/
theorem test_decode_genpwm :
    decodeWord (.command 0x000000000032FF05#64) = .instr (.genpwm 0xFF#8 50#8) ∧
    decodeWord (.command 0x0000000000640005#64) = .instr (.genpwm 0#8 100#8) := by decide

/-- R90: EIDX 1:0, KIND bit 2, bits 7:3 ignored. -/
theorem test_decode_evtOvf : decodeWord (.event (0b11111#5 ++ 0b0#1 ++ 0b01#2)) = .instr (.evtOvf 1#2) := by decide

theorem test_decode_evtCmp : decodeWord (.event (0b00000#5 ++ 0b1#1 ++ 0b10#2)) = .instr (.evtCmp 2#2) := by decide

/-- 95 section 2.7: DELAY t0, 5 is sent as these bytes. -/
theorem test_decode_bytes_little_endian :
    decode (.command [0x04#8, 0x00#8, 0x05#8, 0x00#8, 0x00#8, 0x00#8, 0x00#8, 0x00#8]) = .instr (.delay 0#8 5#32) := by
  decide

/-- 95 section 2.7: OP 6 and 15 are RESERVED. -/
theorem test_decode_reserved :
    decodeWord (.command 0x6#64) = .reserved ∧ decodeWord (.command 0xFFFFFFFFFFFFFFFF#64) = .reserved := by decide

/-- R65, R91: the refused inputs. -/
theorem test_decode_rejected :
    decode (.command [0x01#8]) = .rejected .partialCommand ∧ decodeWord (.event 0xFB#8) = .rejected .noSuchTimer ∧
    decodeWord (.event 0x07#8) = .rejected .noSuchTimer := by decide

/-- R94: assembling the lines of P1, P3 and P6. -/
theorem test_encode_words :
    encode (.init 0#8 0#2 0#3 1#3 1#16) = .command 0x0000000001200000#64 ∧
    encode (.init 2#8 0#2 2#3 0#3 3#16) = .command 0x0000000003080200#64 ∧
    encode (.delay 0#8 5#32) = .command 0x0000000000050004#64 ∧ encode (.evtCmp 2#2) = .event 0x06#8 := by decide

/-- The table's words: every row's own encoding at its own length (spec/opcode_table.json), and the bare low byte of a
command that 95 lists (log 7). -/
theorem test_decodeTableWord :
    decodeTableWord 64 0x0000000001200000 = some (.init 0#8 0#2 0#3 1#3 1#16) ∧
    decodeTableWord 64 0x4 = some (.delay 0#8 0#32) ∧ decodeTableWord 8 0x06 = some (.evtCmp 2#2) ∧
    decodeTableWord 8 0x00 = some (.evtOvf 0#2) ∧ decodeTableWord 8 0x03 = some (.disable 0#8) ∧
    decodeTableWord 64 0x6 = none ∧ decodeTableWord 8 0xFB = none := by decide

/-- The host's question: from reset, the very next step runs the placed operation. -/
theorem test_withFetchWord_runs :
    after (step (State.reset.withFetchWord 64 0x0000000001200000)) (fun t => t.dbi && t.out.status == some .success) = true ∧
    after (step (State.reset.withFetchWord 8 0x06)) (fun t => t.fault == some { reason := .staleTable, word := some (.event 0x06#8) }) = true := by
  decide

/-! ## The calculators (95 sections 2.1, 2.2, 2.4) -/

theorem test_tick_and_overflow_periods :
    tick 16000000 .div1 = 62 ∧ tick 16000000 .div1024 = 64000 ∧ overflowTime 16000000 .div1 .w8 = 15 ∧
    overflowTime 16000000 .div8 .w8 = 128 ∧ overflowTime 16000000 .div1 .w16 = 4063 ∧
    overflowTime 16000000 .div1024 .w16 = 4194304 := by decide

theorem test_calcDelay_8_bits :
    calcDelay 16000000 .div8 .w8 5 = { count := 40, reload := 239 } ∧
    calcDelay 16000000 .div8 .w8 16 = { count := 125, reload := 255 } ∧
    calcDelay 16000000 .div1 .w8 1 = { count := 67, reload := 85 } ∧
    calcDelay 16000000 .div64 .w8 4294967295 = { count := 4194304000, reload := 249 } := by decide

theorem test_calcDelay_16_bits :
    calcDelay 16000000 .div64 .w16 1000 = { count := 4, reload := 12143 } ∧
    calcDelay 16000000 .div1 .w16 10 = { count := 3, reload := 35308 } ∧
    calcDelay 16000000 .div1024 .w16 4294967295 = { count := 1024000, reload := 15 } := by decide

theorem test_calcPwm :
    calcPwm 1 .w8 = { on := 2, off := 253 } ∧ calcPwm 50 .w8 = { on := 127, off := 128 } ∧
    calcPwm 99 .w16 = { on := 64879, off := 656 } ∧ calcPwm 25 .w16 = { on := 16383, off := 49152 } := by decide

theorem test_legal_parameters :
    Config.default.legal = true ∧ emulating.legal = true ∧ tooFast.legal = false ∧
    ({ Config.default with fcpu := 250000999 } : Config).legal = true ∧
    ({ Config.default with fcpu := 999 } : Config).legal = false := by decide

/-! ## One operation (95 sections 2.3 to 2.6) -/

/-- INIT t0, ovf, irq, /8, cb=1 from reset. -/
theorem test_init_from_reset :
    after (exec (.init 0#8 0#2 0#3 1#3 1#16) State.reset) (fun t =>
      t.dbi && t.slots == { t0 := ovf0, t1 := .unclaimed, t2 := .unclaimed } && (t.latch .t0).ctrl == 0x00#8 &&
      (t.latch .t0).ie == 0b01#2 && t.gie && t.out.status == some .success) = true := by decide

/-- P6 line 7: WGM is rewritten, CS is kept, both IE bits end up set. -/
theorem test_init_over_a_running_timer :
    after (exec (.init 0#8 0#2 1#3 1#3 8#16) (table.setLatch .t0 { ctrl := 0x05#8, ocr := 0#16, tload := 240#16, ie := 0b01#2 }))
      (fun t => (t.latch .t0).ctrl == 0x15#8 && (t.latch .t0).ie == 0b11#2 && (t.slot .t0).en == false) = true := by decide

/-- P6 line 5: the clock and the interrupt enables stay. -/
theorem test_deinit_leaves_latches :
    after (exec (.deinit 0#8) ((holding .t0 (running ovf0)).setLatch .t0 { ctrl := 0x05#8, ocr := 0#16, tload := 240#16, ie := 0b01#2 }))
      (fun t => t.slots == table.slots && (t.latch .t0).ctrl == 0x05#8 && (t.latch .t0).ie == 0b01#2) = true := by decide

/-- 95 section 2.5: the index check precedes the table check. -/
theorem test_deinit_bad_index_from_reset :
    after (exec (.deinit 7#8) State.reset) (fun t => t.fault == none && t.out.status == some .invalidArguments) = true := by
  decide

/-- 95 section 2.5, last line: CTRL 0x08 becomes 0x0D. -/
theorem test_enable_keeps_wgm :
    after (exec (.enable 1#8) ((holding .t1 { pcpwm1 with pre := 4#3 }).setLatch .t1 { ctrl := 0x08#8, ocr := 0#16, tload := 0#16, ie := 0#2 }))
      (fun t => (t.latch .t1).ctrl == 0x0D#8 && (t.slot .t1).en) = true := by decide

/-- 95 section 2.5: ENABLE from reset faults. -/
theorem test_enable_from_reset_faults :
    after (exec (.enable 0#8) State.reset) (fun t => t.fault != none && t.out.status == none) = true := by decide

/-- P2 line 9: CTRL 0x13 becomes 0x10 and CNT stays. -/
theorem test_disable_keeps_count :
    after (exec (.disable 1#8) ((counting .t1 (running ctc1) 4#32 2#32).setLatch .t1 { ctrl := 0x13#8, ocr := 12143#16, tload := 0#16, ie := 0b10#2 }))
      (fun t => (t.latch .t1).ctrl == 0x10#8 && (t.ctr .t1).cnt == 2#32 && (t.slot .t1) == ctc1) = true := by decide

theorem test_disable_twice :
    after (exec (.disable 1#8) (holding .t1 ctc1)) (fun t => t.out.status == some .outOfBoundary && t.slot .t1 == ctc1) = true := by
  decide

/-- 95 section 2.3, first line. -/
theorem test_delay_overflow :
    after (exec (.delay 0#8 5#32) (counting .t0 ovf0 40#32 17#32))
      (fun t => (t.latch .t0).tload == 239#16 && (t.latch .t0).ocr == 0#16 && (t.ctr .t0).need == 40#32 &&
        (t.ctr .t0).cnt == 0#32 && (t.latch .t0).ctrl == 0x02#8 && (t.slot .t0).en) = true := by decide

/-- 95 section 2.3: the largest accepted ms at /1 and 8 bits, and the first refused. -/
theorem test_delay_count_range :
    after (exec (.delay 0#8 64424509#32) (holding .t0 fast0))
      (fun t => (t.ctr .t0).need == 4294967267#32 && (t.latch .t0).tload == 85#16) = true ∧
    after (exec (.delay 0#8 64424510#32) (holding .t0 fast0))
      (fun t => t.out.status == some .invalidArguments && t.slot .t0 == fast0) = true := by decide

/-- 95 section 2.4: INIT t2, pwm, irq, /1, cb=3 then GENPWM t2, 50. -/
theorem test_genpwm_8_bits :
    after (exec (.genpwm 2#8 50#8) ((holding .t2 pwm2).setLatch .t2 { ctrl := 0x18#8, ocr := 0#16, tload := 0#16, ie := 0b10#2 }))
      (fun t => (t.ctr .t2).on == 127#16 && (t.ctr .t2).off == 128#16 && (t.latch .t2).ocr == 127#16 &&
        (t.latch .t2).ctrl == 0x19#8 && (t.slot .t2).en) = true := by decide

/-- 95 section 2.4: the duty check precedes the table check. -/
theorem test_genpwm_bad_duty_from_reset :
    after (exec (.genpwm 2#8 100#8) State.reset) (fun t => t.fault == none && t.out.status == some .invalidArguments) = true := by
  decide

/-- 95 section 2.6: the third event fires; with NEED = 0 the counter wraps. -/
theorem test_evtOvf_fires :
    after (exec (.evtOvf 0#2) (counting .t0 ovf0 3#32 2#32))
      (fun t => t.out.fire == some { handle := 1#16, timer := .t0 } && (t.ctr .t0).cnt == 0#32) = true ∧
    after (exec (.evtOvf 0#2) (counting .t0 ovf0 0#32 4294967295#32))
      (fun t => t.out.fire == some { handle := 1#16, timer := .t0 } && (t.ctr .t0).cnt == 0#32) = true := by decide

/-- 95 section 2.6: an Unclaimed slot counts and fires nothing. -/
theorem test_evtOvf_null_handle :
    after (exec (.evtOvf 0#2) (counting .t0 .unclaimed 1#32 0#32)) (fun t => t.out.fire == none && (t.ctr .t0).cnt == 0#32) = true := by
  decide

/-- 95 section 2.6 and P3: the toggle path in both phases. -/
theorem test_evtCmp_toggles :
    after (exec (.evtCmp 2#2) (toggling false))
      (fun t => t.out.toggle == some pin && (t.latch .t2).ocr == 128#16 && (t.ctr .t2).tgl && (t.ctr .t2).cnt == 0#32) = true ∧
    after (exec (.evtCmp 2#2) (toggling true))
      (fun t => t.out.toggle == some pin && (t.latch .t2).ocr == 127#16 && (t.ctr .t2).tgl == false) = true := by decide

/-- 95 section 2.6: a compare event under the native strategy counts. -/
theorem test_evtCmp_counts :
    after (exec (.evtCmp 1#2) (counting .t1 (running ctc1) 4#32 3#32))
      (fun t => t.out.fire == some { handle := 2#16, timer := .t1 } && (t.ctr .t1).cnt == 0#32) = true := by decide

/-! ## One step -/

/-- P5 lines 3 and 4: the fault records the word, and the block is then stopped; a reset clears it. -/
theorem test_step_fault_and_reset :
    after (step (given State.reset [cmd 2#64])) (fun t => t == { faulted with current := some (.command 2#64) }) = true ∧
    after (step (given faulted [cmd 3#64])) (fun _ => true) = false ∧
    after (step (given faulted [.reset])) (fun t => t == State.reset) = true := by decide

/-- R261: with nothing presented the block waits. -/
theorem test_step_waits : after (step State.reset) (fun t => t == State.reset) = true := by decide

/-- R230: an event before any INIT is not admitted. -/
theorem test_step_event_not_admitted : refusedAs (step (given State.reset [evt 0x00#8])) .eventNotAdmitted = true := by decide

/-! ## Witnesses: for every statement with hypotheses, a state and operands that meet them together (and each clause) -/

theorem witness_ResetStepRestoresReset :
    (given faulted [.reset, cmd 1#64]).cfg.legal = true ∧
    (given faulted [.reset, cmd 1#64]).inbox = .reset :: [cmd 1#64] := by decide

theorem witness_OnlyResetClears :
    after (step (given table [cmd 0x2#64])) (fun _ => true) = true ∧ (given table [cmd 0x2#64]).resetNext = false ∧
    table.dbi = true := by decide

theorem witness_EncodeThenDecode :
    (Instr.evtCmp 2#2).wellFormed = true ∧ (Instr.init 0xFF#8 3#2 7#3 7#3 0xFFFF#16).wellFormed = true := by decide

/-- Two different words for each clause: INIT, a command of IDX only, DELAY, GENPWM, RESERVED, an event. -/
theorem witness_UnnamedBitsIgnored :
    (let v := 0xF000000000000010#64
     v &&& 0xF#64 = 0#64 &&& 0xF#64 ∧ v &&& 0xF#64 = 0#64 ∧ v &&& 0xFFFFFFFF0F#64 = 0#64 &&& 0xFFFFFFFF0F#64) ∧
    (let v := 0xFFFF0000000001F2#64
     v &&& 0xF#64 = 0x102#64 &&& 0xF#64 ∧ v &&& 0xF#64 = 2#64 ∧ v &&& 0xFF0F#64 = 0x102#64 &&& 0xFF0F#64) ∧
    (let v := 0xFFFF800000010014#64
     v &&& 0xF#64 = 0x0000800000010004#64 &&& 0xF#64 ∧ v &&& 0xF#64 = 4#64 ∧
     v &&& 0xFFFFFFFFFF0F#64 = 0x0000800000010004#64 &&& 0xFFFFFFFFFF0F#64) ∧
    (let v := 0xFFFFFFFFFF3202F5#64
     v &&& 0xF#64 = 0x320205#64 &&& 0xF#64 ∧ v &&& 0xF#64 = 5#64 ∧ v &&& 0xFFFF0F#64 = 0x320205#64 &&& 0xFFFF0F#64) ∧
    (0xFF6#64 &&& 0xF#64 = 0x6#64 &&& 0xF#64 ∧ 6 ≤ (0xFF6#64 &&& 0xF#64).toNat) ∧
    0xF8#8 &&& 0x07#8 = 0x00#8 &&& 0x07#8 := by decide

theorem witness_BytesAreLittleEndian : (bytesOfCommand 0x0000000000050004#64).length = 8 := by decide

/-- A command and an admitted event. -/
theorem witness_StepRunsDecodedOperation :
    (let s := given State.reset [cmd 0x0000000001200000#64]
     s.cfg.legal = true ∧ s.fault = none ∧
     decode (.command (bytesOfCommand 0x0000000001200000#64)) = .instr (.init 0#8 0#2 0#3 1#3 1#16) ∧
     s.admits (.init 0#8 0#2 0#3 1#3 1#16) = true) ∧
    (let s := given { toggling false with gie := true } [evt 0x06#8]
     s.cfg.legal = true ∧ s.fault = none ∧ decode (.event 0x06#8) = .instr (.evtCmp 2#2) ∧ s.admits (.evtCmp 2#2) = true) := by
  decide

/-- The sources of timer 2 with only its compare bit set; and an event that is not admitted. -/
theorem witness_AdmissionOfEvents :
    (let s := { toggling false with gie := true }
     s.admits (.evtCmp TimerId.t2.eidx) = true ∧ s.admits (.evtOvf TimerId.t2.eidx) = false) ∧
    (let s := given State.reset [evt 0x00#8]
     s.cfg.legal = true ∧ s.fault = none ∧ decode (.event 0x00#8) = .instr (.evtOvf 0#2) ∧ s.admits (.evtOvf 0#2) = false) := by
  decide

theorem witness_ReservedCommandAnswersOutOfBoundary :
    (given table [cmd 0x6#64]).cfg.legal = true ∧ (given table [cmd 0x6#64]).fault = none ∧
    6 ≤ (0x6#64).toNat % 16 ∧ 6 ≤ (0xFF0F#64).toNat % 16 := by decide

theorem witness_EventOfNoTimerRefused :
    (given table [evt 0xFB#8]).cfg.legal = true ∧ (given table [evt 0xFB#8]).fault = none ∧ (0xFB#8).extractLsb' 0 2 = 3#2 ∧
    (0x07#8).extractLsb' 0 2 = 3#2 := by decide

theorem witness_PartialCommandRefused :
    (given table [.port (.command [1#8])]).cfg.legal = true ∧ (given table [.port (.command [1#8])]).fault = none ∧
    ([1#8] : List Byte).length < 8 ∧ ([1#8, 0#8, 0#8, 0#8, 0#8, 0#8, 0#8] : List Byte).length < 8 := by decide

theorem witness_FaultedBlockStops :
    (given faulted [cmd 3#64]).cfg.legal = true ∧
    (given faulted [cmd 3#64]).fault = some { reason := .staleTable, word := some (.command 2#64) } ∧
    (given faulted [cmd 3#64]).resetNext = false ∧ faulted.resetNext = false := by decide

theorem witness_IllegalParametersRefused :
    ({ State.reset with cfg := tooFast } : State).cfg.legal = false ∧ Config.default.legal = true := by decide

/-- The clocks on both sides of the limit, and the slowest. -/
theorem witness_FastestClock :
    1 ≤ overflowTime 250000999 .div1 .w8 ∧ ¬1 ≤ overflowTime 250001000 .div1 .w8 ∧ 1 ≤ overflowTime 1000 .div1 .w8 := by decide

theorem witness_ParametersFixed : after (step (given State.reset [cmd 0x0000000001200000#64])) (fun _ => true) = true := by decide

theorem witness_IndexGuard : 3 ≤ (3#8).toNat ∧ 3 ≤ (0xFF#8).toNat ∧ ¬3 ≤ (2#8).toNat := by decide

theorem witness_StaleTableFaults :
    State.reset.dbi = false ∧ 1#32 ≠ 0#32 ∧ 1 ≤ (1#8).toNat ∧ (1#8).toNat ≤ 99 ∧ 1 ≤ (99#8).toNat ∧ (99#8).toNat ≤ 99 := by decide

theorem witness_UnclaimedSlotNotInitialized :
    table.dbi = true ∧ table.slots.get .t1 = Slot.unclaimed ∧ 5#32 ≠ 0#32 ∧ 1 ≤ (50#8).toNat ∧ (50#8).toNat ≤ 99 := by decide

/-- Stored prescalers 5 and 7 in slots of modes 1 and 2. -/
theorem witness_InvalidStoredPrescaler :
    (let s := holding .t1 { ctc1 with pre := 5#3 }
     s.dbi = true ∧ s.slots.get .t1 ≠ Slot.unclaimed ∧ (s.slots.get .t1).en = false ∧ 5 ≤ (s.slots.get .t1).pre.toNat ∧
     (s.slots.get .t1).mode.toNat ≤ 1 ∧ 5#32 ≠ 0#32) ∧
    (let s := holding .t2 { pwm2 with pre := 7#3 }
     s.dbi = true ∧ s.slots.get .t2 ≠ Slot.unclaimed ∧ (s.slots.get .t2).en = false ∧ 5 ≤ (s.slots.get .t2).pre.toNat ∧
     2 ≤ (s.slots.get .t2).mode.toNat ∧ (s.slots.get .t2).mode.toNat ≤ 3 ∧ 1 ≤ (99#8).toNat ∧ (99#8).toNat ≤ 99) := by decide

/-- One illegal argument each, at the boundary. -/
theorem witness_InitRefusesIllegalArguments :
    3 ≤ (3#8).toNat ∧ 2 ≤ (2#2).toNat ∧ 4 ≤ (4#3).toNat ∧ 5 ≤ (5#3).toNat ∧ 0#16 = 0#16 := by decide

theorem witness_InitOfClaimedSlot :
    (holding .t0 ovf0).dbi = true ∧ (holding .t0 ovf0).slots.get .t0 ≠ Slot.unclaimed ∧ 1#16 ≠ 0#16 := by decide

/-- A stale table, and an initialised one with the slot Unclaimed. -/
theorem witness_InitClaimsSlot :
    (State.reset.dbi = true → State.reset.slots.get .t0 = Slot.unclaimed) ∧
    table.dbi = true ∧ table.slots.get .t0 = Slot.unclaimed ∧ 1#16 ≠ 0#16 := by decide

theorem witness_DeinitReleasesSlot :
    (holding .t0 (running ovf0)).dbi = true ∧ (holding .t0 (running ovf0)).slots.get .t0 ≠ Slot.unclaimed := by decide

theorem witness_EnableStartsTimer :
    (let s := holding .t0 ovf0
     s.dbi = true ∧ s.slots.get .t0 ≠ Slot.unclaimed ∧ (s.slots.get .t0).en = false ∧
     (s.slots.get .t0).pre = Prescaler.div8.code) := by decide

theorem witness_EnableTwice :
    (holding .t0 (running ovf0)).dbi = true ∧ ((holding .t0 (running ovf0)).slots.get .t0).en = true ∧
    after (exec (.enable TimerId.t0.index) (holding .t0 ovf0)) (fun t => t.out.status == some .success) = true := by decide

theorem witness_DisableStopsTimer :
    (holding .t1 (running ctc1)).dbi = true ∧ ((holding .t1 (running ctc1)).slots.get .t1).en = true := by decide

theorem witness_DisableTwice :
    (holding .t1 ctc1).dbi = true ∧ (holding .t1 ctc1).slots.get .t1 ≠ Slot.unclaimed ∧
    ((holding .t1 ctc1).slots.get .t1).en = false := by decide

theorem toggling_clockFollowsSlot : (toggling false).ClockFollowsSlot := by
  intro _ i
  cases i
  · exact fun h => absurd h (by decide)
  · exact fun h => absurd h (by decide)
  · exact fun _ => ⟨.div1, by decide, by decide⟩

theorem witness_DisableThenEnableResumes :
    (toggling false).ClockFollowsSlot ∧ (toggling false).dbi = true ∧ ((toggling false).slots.get .t2).en = true :=
  ⟨toggling_clockFollowsSlot, by decide, by decide⟩

/-- Overflow mode (mode 0) at 8 bits, whose count is the largest that is accepted; Compare-Match mode (mode 1) at 16 bits. -/
theorem witness_DelayArmsTimer :
    (let s := holding .t0 fast0
     s.cfg.legal = true ∧ s.dbi = true ∧ (s.slots.get .t0).mode.toNat ≤ 1 ∧ (s.slots.get .t0).en = false ∧
     (s.slots.get .t0).pre = Prescaler.div1.code ∧ 1 ≤ (64424509#32).toNat ∧
     (64424509#32).toNat * 10 ^ 3 / 15 + (if (64424509#32).toNat * 10 ^ 3 % 15 ≠ 0 then 1 else 0) ≤ 2 ^ 32 - 1) ∧
    (1 * 10 ^ 6 / (16000000 / 10 ^ 3)) * 2 ^ 8 / 10 ^ 3 = 15 ∧
    (let s := holding .t1 ctc1
     (s.slots.get .t1).mode.toNat ≤ 1 ∧ (s.slots.get .t1).en = false ∧ (s.slots.get .t1).pre = Prescaler.div64.code) := by decide

/-- A PWM mode; an enabled slot; a count over the range (ms = 64424510, R147). -/
theorem witness_DelayRejections :
    (let s := holding .t2 pwm2
     s.dbi = true ∧ s.slots.get .t2 ≠ Slot.unclaimed ∧ 2 ≤ (s.slots.get .t2).mode.toNat ∧ 5#32 ≠ 0#32) ∧
    (let s := holding .t0 (running ovf0)
     s.dbi = true ∧ s.slots.get .t0 ≠ Slot.unclaimed ∧ (s.slots.get .t0).en = true) ∧
    (let s := holding .t0 fast0
     s.dbi = true ∧ s.slots.get .t0 ≠ Slot.unclaimed ∧ s.cfg.legal = true ∧ (s.slots.get .t0).mode.toNat ≤ 1 ∧
     (s.slots.get .t0).en = false ∧ (s.slots.get .t0).pre = Prescaler.div1.code ∧
     2 ^ 32 - 1 < (calcDelay s.cfg.fcpu .div1 (s.cfg.timers.get .t0).width (64424510#32).toNat).count) := by decide

/-- A delay without a remainder, and one with (95 section 2.2). -/
theorem witness_DelayPlanRanges :
    1 ≤ 16 ∧ 1 ≤ overflowTime 16000000 .div8 .w8 ∧ 16 * 1000 % overflowTime 16000000 .div8 .w8 = 0 ∧
    129 * 1000 % overflowTime 16000000 .div8 .w8 = 104 := by decide

/-- The two sides of the limit at /1, 8 bits, 16 MHz; and a period of at least 1000. -/
theorem witness_DelayAcceptedRange :
    1 ≤ overflowTime 16000000 .div1 .w8 ∧ 64424509 ≤ (2 ^ 32 - 1) * overflowTime 16000000 .div1 .w8 / 1000 ∧
    ¬64424510 ≤ (2 ^ 32 - 1) * overflowTime 16000000 .div1 .w8 / 1000 ∧ 1000 ≤ overflowTime 16000000 .div64 .w8 := by decide

/-- Both PWM modes, and the extreme duties. -/
theorem witness_GenpwmArmsTimer :
    (let s := holding .t2 pwm2
     s.dbi = true ∧ 2 ≤ (s.slots.get .t2).mode.toNat ∧ (s.slots.get .t2).mode.toNat ≤ 3 ∧ (s.slots.get .t2).en = false ∧
     (s.slots.get .t2).pre = Prescaler.div1.code ∧ 1 ≤ (1#8).toNat ∧ (99#8).toNat ≤ 99) ∧
    (let s := holding .t1 pcpwm1
     s.dbi = true ∧ 2 ≤ (s.slots.get .t1).mode.toNat ∧ (s.slots.get .t1).mode.toNat ≤ 3 ∧ (s.slots.get .t1).en = false ∧
     (s.slots.get .t1).pre = Prescaler.div256.code) := by decide

/-- Duties 0 and 100; modes 1 and 4; an enabled slot. -/
theorem witness_GenpwmRejections :
    (0#8).toNat = 0 ∧ 100 ≤ (100#8).toNat ∧ 1 ≤ (99#8).toNat ∧ (99#8).toNat ≤ 99 ∧
    (let s := holding .t1 ctc1
     s.dbi = true ∧ s.slots.get .t1 ≠ Slot.unclaimed ∧ (s.slots.get .t1).mode.toNat ≤ 1) ∧
    (let s := holding .t1 { ctc1 with mode := 4#3 }
     s.slots.get .t1 ≠ Slot.unclaimed ∧ 4 ≤ (s.slots.get .t1).mode.toNat) ∧
    (let s := holding .t2 (running pwm2)
     s.slots.get .t2 ≠ Slot.unclaimed ∧ (s.slots.get .t2).en = true) := by decide

theorem witness_ThresholdRanges : 1 ≤ 1 ∧ 1 ≤ 99 ∧ 99 ≤ 99 := by decide

theorem witness_OverflowEventCounts : (counting .t0 ovf0 3#32 2#32).dbi = true := by decide

/-- The native strategy in a PWM mode; an emulated timer whose slot is in mode 1; and in none (mode 7). -/
theorem witness_CompareEventCounts :
    ((holding .t1 pcpwm1).dbi = true ∧ ((holding .t1 pcpwm1).cfg.timers.get .t1).strategy = .native) ∧
    (let s := { holding .t2 { pwm2 with mode := 1#3 } with cfg := emulating }
     s.dbi = true ∧ (s.cfg.timers.get .t2).strategy = .emulation pin ∧ (s.slots.get .t2).mode.toNat ≤ 1) ∧
    (let s := { table with cfg := emulating }
     s.dbi = true ∧ 4 ≤ (s.slots.get .t2).mode.toNat) := by decide

theorem toggling_withinWidth (b : Bool) : (toggling b).WithinWidth := by
  intro i
  cases b <;> cases i <;> decide

/-- Both phases. -/
theorem witness_CompareEventToggles (b : Bool) :
    (toggling b).WithinWidth ∧ (toggling b).dbi = true ∧ ((toggling b).cfg.timers.get .t2).strategy = .emulation pin ∧
    2 ≤ ((toggling b).slots.get .t2).mode.toNat ∧ ((toggling b).slots.get .t2).mode.toNat ≤ 3 ∧
    ((toggling b).ctrs.get .t2).tgl = b :=
  ⟨toggling_withinWidth b, by cases b <;> decide⟩

/-- An event of a stale table; and a step on an admitted event from a state that meets QuietBeforeInit. -/
theorem witness_EventsFaultOnlyUnadmitted :
    State.reset.dbi = false ∧
    (let s := given { toggling false with gie := true } [evt 0x06#8]
     s.QuietBeforeInit ∧ s.eventNext = true ∧ after (step s) (fun _ => true) = true) :=
  ⟨by decide, fun h => absurd h (by decide), by decide, by decide⟩

theorem witness_EventsTouchNoConfiguration :
    after (exec (.evtOvf 0#2) (counting .t0 ovf0 3#32 2#32)) (fun _ => true) = true ∧
    after (exec (.evtCmp 2#2) (toggling true)) (fun _ => true) = true := by decide

/-- A count that is armed, one that is not, a mix of the two kinds of event under the native strategy, and compare events
of an emulated timer whose slot is in mode 1 or in none. -/
theorem witness_FirePeriod :
    (let s := counting .t1 ctc1 3#32 0#32
     s.dbi = true ∧ (s.ctrs.get .t1).cnt = 0#32 ∧ (s.ctrs.get .t1).need ≠ 0#32 ∧
     (s.cfg.timers.get .t1).strategy = .native ∧
     (∀ op ∈ [Instr.evtCmp 1#2, .evtOvf 1#2, .evtCmp 1#2], op = .evtOvf TimerId.t1.eidx ∨ op = .evtCmp TimerId.t1.eidx) ∧
     after (execAll [.evtCmp 1#2, .evtOvf 1#2, .evtCmp 1#2] s) (fun t => t.out.fire == some { handle := 2#16, timer := .t1 }) = true) ∧
    ((counting .t0 ovf0 0#32 0#32).dbi = true ∧ ((counting .t0 ovf0 0#32 0#32).ctrs.get .t0).need = 0#32) ∧
    (let s := { counting .t2 { pwm2 with mode := 1#3 } 3#32 0#32 with cfg := emulating }
     (s.cfg.timers.get .t2).strategy = .emulation pin ∧ (s.slots.get .t2).mode.toNat ≤ 1) ∧
    4 ≤ (Slot.unclaimed.mode).toNat := by decide

/-- An Overflow DELAY of one count (P6 line 2) with its overflow event, and a Compare-Match DELAY of four (P2 line 2) with its
compare events. -/
theorem witness_DelayFiresEveryCountEvents :
    (let s := holding .t0 { ovf0 with pre := 4#3 }
     s.cfg.legal = true ∧ s.cfg.armResetsCounter = true ∧ (s.slots.get .t0).pre = Prescaler.div1024.code ∧
     (s.slots.get .t0).cb ≠ 0#16 ∧
     after (exec (.delay TimerId.t0.index 1#32) s) (fun t => t.out.status == some .success) = true) ∧
    (let s := holding .t1 ctc1
     (s.slots.get .t1).pre = Prescaler.div64.code ∧ (s.slots.get .t1).cb ≠ 0#16 ∧
     after (exec (.delay TimerId.t1.index 1000#32) s) (fun t => t.out.status == some .success &&
       after (execAll [.evtCmp 1#2, .evtCmp 1#2, .evtCmp 1#2] t) (fun u => u.out.fire == none) &&
       after (execAll [.evtCmp 1#2, .evtCmp 1#2, .evtCmp 1#2, .evtCmp 1#2] t)
         (fun u => u.out.fire == some { handle := 2#16, timer := .t1 })) = true) ∧
    (∀ op ∈ [Instr.evtCmp 1#2], op = .evtOvf TimerId.t1.eidx ∨ op = .evtCmp TimerId.t1.eidx) := by decide

theorem holding_slotsConsistent : (holding .t0 ovf0).SlotsConsistent := by
  intro _ i
  cases i
  · exact .inr (by unfold Slot.ValidFor; decide)
  · exact .inl (by decide)
  · exact .inl (by decide)

/-- ENABLE in a consistent table. -/
theorem witness_SlotTableStaysConsistent :
    (given (holding .t0 ovf0) [cmd 2#64]).SlotsConsistent ∧
    after (step (given (holding .t0 ovf0) [cmd 2#64])) (fun t => (t.slot .t0).en) = true :=
  ⟨holding_slotsConsistent, by decide⟩

/-- A toggling timer with thresholds, and its next event. -/
theorem witness_LatchesWithinWidth :
    (let s := given { toggling false with gie := true } [evt 0x06#8]
     s.ReservedZero ∧ s.WithinWidth ∧ after (step s) (fun t => (t.latch .t2).ocr == 128#16) = true) :=
  ⟨by intro i; cases i <;> decide, toggling_withinWidth false, by decide⟩

/-- The first passing INIT, and a command that faults, both from reset. -/
theorem witness_QuietUntilFirstInit :
    State.reset.QuietBeforeInit ∧ State.reset.FaultOnlyStale ∧
    after (step (given State.reset [cmd 0x0000000001200000#64])) (fun t => t.dbi) = true ∧
    after (step (given State.reset [cmd 2#64])) (fun t => t.fault != none) = true :=
  ⟨fun _ i => by cases i <;> decide, fun h => absurd rfl h, by decide, by decide⟩

theorem witness_RunningClockFollowsSlot :
    (given (toggling false) [cmd 0x203#64]).ClockFollowsSlot ∧
    after (step (given (toggling false) [cmd 0x203#64])) (fun t => (t.slot .t2).en == false) = true :=
  ⟨toggling_clockFollowsSlot, by decide⟩

/-- A command that keeps the slot, and the DEINIT that releases it. -/
theorem witness_ClaimedSlotKeepsIdentity :
    (let s := holding .t0 ovf0
     s.dbi = true ∧ s.slots.get .t0 ≠ Slot.unclaimed ∧ after (exec (.delay 0#8 5#32) s) (fun t => t.slot .t0 == running ovf0) = true ∧
     after (exec (.deinit 0#8) s) (fun t => t.slot .t0 == Slot.unclaimed) = true) := by decide

theorem witness_OnlyInitConfiguresSources :
    after (exec (.disable 2#8) { toggling false with gie := true }) (fun t => t.gie) = true ∧
    ieBit ((toggling false).latches.get .t2).ie .compare = true := by decide

theorem witness_WritersOfCounters :
    after (exec (.disable 1#8) (counting .t1 (running ctc1) 4#32 2#32)) (fun t => (t.ctr .t1).cnt == 2#32) = true := by decide

theorem witness_FailingCommandWritesNothing :
    after (exec (.enable 0#8) (holding .t0 (running ovf0))) (fun t => t.out.status == some .outOfBoundary) = true ∧
    Status.outOfBoundary ≠ Status.success := by decide

theorem witness_StatusCodesOfCommands :
    (holding .t0 ovf0).fault = none ∧ after (exec (.enable 0#8) (holding .t0 ovf0)) (fun t => t.out.status == some .success) = true ∧
    after (exec (.enable 0#8) State.reset) (fun t => t.out.status == none) = true := by decide

theorem witness_PulsesOnlyFromEvents :
    after (exec (.evtOvf 0#2) (counting .t0 ovf0 3#32 2#32)) (fun t => t.out.fire == some { handle := 1#16, timer := .t0 }) = true ∧
    after (exec (.evtCmp 2#2) (toggling true)) (fun t => t.out.toggle == some pin) = true := by decide

/-- A command of timer 1 over an initialised table, and one that names no timer over a stale one. -/
theorem witness_TimersAreIsolated :
    table.dbi = true ∧ (Instr.delay 1#8 1000#32).timer? ≠ some .t0 ∧
    after (exec (.delay 1#8 1000#32) (holding .t1 ctc1)) (fun t => t.slot .t0 == Slot.unclaimed && (t.slot .t1).en) = true ∧
    (Instr.init 3#8 0#2 0#3 1#3 1#16).timer? = none ∧
    after (exec (.init 3#8 0#2 0#3 1#3 1#16) State.reset) (fun t => t.dbi == false) = true := by decide

/-- A stale table, an INIT that initialises it, and an event that is refused. -/
theorem witness_StaleTableUnobservable :
    State.reset.dbi = false ∧ after (exec (.init 0#8 0#2 0#3 1#3 1#16) State.reset) (fun t => t.dbi) = true ∧
    refusedAs (exec (.evtOvf 3#2) State.reset) .noSuchTimer = true := by decide

/-- Armed by DELAY; kept by an event; left by DISABLE; entered again by ENABLE; and an ENABLE that no DELAY came before (R274)
makes the timer neither Armed nor Idle. -/
theorem witness_ArmedUntilDisabled :
    (let s := counting .t0 (running ovf0) 40#32 3#32
     s.phase .t0 = some .armed ∧ after (exec (.evtOvf 0#2) s) (fun t => t.phase .t0 == some .armed) = true ∧
     after (exec (.disable 0#8) s) (fun t => t.phase .t0 == some .idle) = true) ∧
    after (exec (.delay TimerId.t0.index 5#32) (holding .t0 ovf0)) (fun t =>
      t.out.status == some .success && t.phase .t0 == some .armed) = true ∧
    (let s := counting .t0 ovf0 40#32 3#32
     s.phase .t0 ≠ some .armed ∧ after (exec (.enable 0#8) s) (fun t => t.phase .t0 == some .armed) = true) ∧
    after (exec (.enable 0#8) (holding .t0 ovf0)) (fun t => (t.slot .t0).en && t.phase .t0 == none) = true := by decide

end Sys2Proof.Tests
end

section
/-! SUPPORT. Bytes of a command: a command word and its eight bytes say the same (R64), and a partial word is no command
(R65). -/

namespace Sys2Proof

/-! ## A word and its bytes (R64) -/

/-- The low `n` bytes of a word of any width, byte 0 first. -/
def lowBytes {m : Nat} (n : Nat) (w : BitVec m) : List Byte :=
  (List.range n).map fun k => w.extractLsb' (8 * k) 8

theorem bytesOfCommand_eq_lowBytes (w : CmdWord) : bytesOfCommand w = lowBytes 8 w := rfl

theorem lowBytes_one (b : Byte) : lowBytes 1 b = [b] := by
  rw [lowBytes, List.range_one, List.map_singleton, Nat.mul_zero, BitVec.extractLsb'_eq_self]

/-- The byte at a word's low end comes first, then the bytes of the rest. -/
theorem lowBytes_append {m n : Nat} (x : BitVec m) (b : Byte) : lowBytes (n + 1) (x ++ b) = b :: lowBytes n x := by
  unfold lowBytes
  rw [List.range_succ_eq_map, List.map_cons, List.map_map]
  congr 1
  · rw [extract_append_low x b (by omega), Nat.mul_zero, BitVec.extractLsb'_eq_self]
  · refine List.map_congr_left fun k _ => ?_
    rw [Function.comp_apply, extract_append_high x b (by omega)]
    congr 1

/-- Byte `k` of a command word holds its bits `8k+7 : 8k`. -/
theorem getElem?_bytesOfCommand (w : CmdWord) (k : Fin 8) :
    (bytesOfCommand w)[k.val]? = some (w.extractLsb' (8 * k.val) 8) := by
  rw [bytesOfCommand_eq_lowBytes, lowBytes, List.getElem?_map, List.getElem?_range k.isLt, Option.map_some]

/-- Bytes that make a command word are that word's bytes. -/
theorem bytesOfCommand_of_commandOfBytes? {bytes : List Byte} {w : CmdWord} (h : commandOfBytes? bytes = some w) :
    bytesOfCommand w = bytes := by
  unfold commandOfBytes? at h
  split at h
  · cases h
    rw [bytesOfCommand_eq_lowBytes, lowBytes_append, lowBytes_append, lowBytes_append, lowBytes_append, lowBytes_append,
      lowBytes_append, lowBytes_append, lowBytes_one]
  · cases h

theorem commandOfBytes?_eight (b0 b1 b2 b3 b4 b5 b6 b7 : Byte) :
    commandOfBytes? [b0, b1, b2, b3, b4, b5, b6, b7] = some (b7 ++ b6 ++ b5 ++ b4 ++ b3 ++ b2 ++ b1 ++ b0) := rfl

/-- The bytes of a word make the word again: neighbouring fields join, from the top byte down. -/
theorem commandOfBytes?_bytesOfCommand (w : CmdWord) : commandOfBytes? (bytesOfCommand w) = some w := by
  rw [bytesOfCommand, commandOfBytes?_eight]
  iterate 7 rw [BitVec.extractLsb'_append_extractLsb'_eq_extractLsb' (by decide)]
  exact congrArg some BitVec.extractLsb'_eq_self

/-- Any eight bytes make a command word. -/
theorem exists_commandOfBytes?_of_length {bytes : List Byte} (h : bytes.length = 8) :
    ∃ w, commandOfBytes? bytes = some w :=
  match bytes, h with
  | [_, _, _, _, _, _, _, _], _ => ⟨_, commandOfBytes?_eight ..⟩

end Sys2Proof

namespace Sys2Proof.Machine

/-- A step on a command of other than eight bytes is refused by name (R65). -/
theorem step_partialCommand {s : State} {bytes : List Byte} {rest : List Input} (hl : s.cfg.legal = true)
    (hf : s.fault = none) (hin : s.inbox = .port (.command bytes) :: rest) (h : bytes.length ≠ 8) :
    step s = .refused .partialCommand := by
  rw [step_port hl hf hin, decode_partial h]
  rfl

end Sys2Proof.Machine

open Sys2Proof Sys2Proof.Machine

/-- Settles O8: a word's bytes make it again, and any bytes that make a word are its bytes, byte `k` its bits `8k+7 : 8k`. -/
theorem bytesAreLittleEndian : Obligations.BytesAreLittleEndian := by
  refine ⟨commandOfBytes?_bytesOfCommand, fun bytes h => ?_⟩
  obtain ⟨w, hw⟩ := exists_commandOfBytes?_of_length h
  refine ⟨w, hw, fun k => ?_⟩
  rw [← bytesOfCommand_of_commandOfBytes? hw]
  exact getElem?_bytesOfCommand w k

/-- Settles O14: a command of fewer than eight bytes is none of a whole word's eight. -/
theorem partialCommandRefused : Obligations.PartialCommandRefused :=
  fun _ _ _ hl hf hin h => step_partialCommand hl hf hin (Nat.ne_of_lt h)

end

section
/-! SUPPORT. Fields of a word: the decoder's answer for each OP and each form of event word, the fields as numbers (R15), and
which bits decide them (R83). -/

namespace Sys2Proof

/-! ## A command word by its OP (R81, R88) -/

theorem decodeWord_init {w : CmdWord} (h : (cmdOp w).toNat = 0) :
    decodeWord (.command w) = .instr (.init (cmdIdx w) (cmdIu w) (cmdMode w) (cmdPre w) (cmdCb w)) := by
  simp only [decodeWord, decodeCommand, h]

theorem decodeWord_deinit {w : CmdWord} (h : (cmdOp w).toNat = 1) :
    decodeWord (.command w) = .instr (.deinit (cmdIdx w)) := by
  simp only [decodeWord, decodeCommand, h]

theorem decodeWord_enable {w : CmdWord} (h : (cmdOp w).toNat = 2) :
    decodeWord (.command w) = .instr (.enable (cmdIdx w)) := by
  simp only [decodeWord, decodeCommand, h]

theorem decodeWord_disable {w : CmdWord} (h : (cmdOp w).toNat = 3) :
    decodeWord (.command w) = .instr (.disable (cmdIdx w)) := by
  simp only [decodeWord, decodeCommand, h]

theorem decodeWord_delay {w : CmdWord} (h : (cmdOp w).toNat = 4) :
    decodeWord (.command w) = .instr (.delay (cmdIdx w) (cmdMs w)) := by
  simp only [decodeWord, decodeCommand, h]

theorem decodeWord_genpwm {w : CmdWord} (h : (cmdOp w).toNat = 5) :
    decodeWord (.command w) = .instr (.genpwm (cmdIdx w) (cmdDuty w)) := by
  simp only [decodeWord, decodeCommand, h]

theorem decodeCommand_eq_none {w : CmdWord} (h : 6 ≤ (cmdOp w).toNat) : decodeCommand w = none := by
  unfold decodeCommand
  split
  case h_7 => rfl
  all_goals omega -- an OP below 6 contradicts `h`

theorem decodeWord_reserved {w : CmdWord} (h : 6 ≤ (cmdOp w).toNat) : decodeWord (.command w) = .reserved := by
  simp only [decodeWord, decodeCommand_eq_none h]

/-! ## An event word by EIDX and KIND (R90, R91) -/

theorem decodeWord_noSuchTimer {w : EvtWord} (h : evtEidx w = 3#2) : decodeWord (.event w) = .rejected .noSuchTimer := by
  simp [decodeWord, decodeEvent, eidxOk, h]

theorem decodeWord_evtOvf {w : EvtWord} (h : evtEidx w ≠ 3#2) (hk : evtKind w = 0#1) :
    decodeWord (.event w) = .instr (.evtOvf (evtEidx w)) := by
  simp [decodeWord, decodeEvent, eidxOk, h, hk]

theorem decodeWord_evtCmp {w : EvtWord} (h : evtEidx w ≠ 3#2) (hk : evtKind w ≠ 0#1) :
    decodeWord (.event w) = .instr (.evtCmp (evtEidx w)) := by
  simp [decodeWord, decodeEvent, eidxOk, h, hk]

/-! ## Fields as numbers (R15) -/

theorem cmdOp_toNat (w : CmdWord) : (cmdOp w).toNat = w.toNat % 2 ^ 4 := by
  rw [cmdOp, extract_eq_ofNat, BitVec.toNat_ofNat, Nat.pow_zero, Nat.div_one]

/-- The mask 0xF leaves OP (R80). -/
theorem cmdOp_toNat_of_mask {w x : CmdWord} (h : w &&& 0xF#64 = x) : (cmdOp w).toNat = x.toNat := by
  rw [← h, BitVec.toNat_and, cmdOp_toNat]
  exact (Nat.and_two_pow_sub_one_eq_mod w.toNat 4).symm

theorem evtEidx_eq_ofNat (w : EvtWord) : evtEidx w = BitVec.ofNat 2 w.toNat := by
  rw [evtEidx, extract_eq_ofNat, Nat.pow_zero, Nat.div_one]

theorem evtEidx_eq_three_iff (w : EvtWord) : evtEidx w = 3#2 ↔ w.toNat % 4 = 3 := by
  rw [evtEidx_eq_ofNat, ← BitVec.toNat_inj]
  rfl

theorem evtKind_eq_zero_iff (w : EvtWord) : evtKind w = 0#1 ↔ w.toNat / 4 % 2 = 0 := by
  rw [evtKind, extract_eq_ofNat, ← BitVec.toNat_inj]
  rfl

/-- EIDX and KIND alone decide an event word (R83, R90). -/
theorem decodeWord_event_congr {v w : EvtWord} (he : evtEidx v = evtEidx w) (hk : evtKind v = evtKind w) :
    decodeWord (.event v) = decodeWord (.event w) := by
  simp only [decodeWord, decodeEvent, he, hk]

/-! ## A whole command word on its port -/

theorem word?_bytesOfCommand (w : CmdWord) : (PortInput.command (bytesOfCommand w)).word? = some (.command w) := by
  rw [PortInput.word?, commandOfBytes?_bytesOfCommand, Option.map_some]

theorem decode_bytesOfCommand (w : CmdWord) : decode (.command (bytesOfCommand w)) = decodeWord (.command w) := by
  rw [decode, word?_bytesOfCommand]

end Sys2Proof

namespace Sys2Proof.Machine

/-- EIDX = 3 names no timer (R91). -/
theorem withEventTimer_noSuchTimer (k : TimerId → Result) : withEventTimer 3#2 k = .refused .noSuchTimer := rfl

end Sys2Proof.Machine

open Sys2Proof Sys2Proof.Machine

/-- Settles O5: OP is the word's number modulo 16, and each operand a quotient of it. -/
theorem commandFieldsOfAWord : Obligations.CommandFieldsOfAWord := by
  intro w n idx
  have hop : (cmdOp w).toNat = n % 2 ^ 4 := cmdOp_toNat w
  have hidx : cmdIdx w = idx := extract_eq_ofNat w 8 8
  split
  case h_1 h =>
    rw [decodeWord_init (hop.trans h), hidx, cmdIu, cmdMode, cmdPre, cmdCb]
    simp only [extract_eq_ofNat, n]
  case h_2 h => rw [decodeWord_deinit (hop.trans h), hidx]
  case h_3 h => rw [decodeWord_enable (hop.trans h), hidx]
  case h_4 h => rw [decodeWord_disable (hop.trans h), hidx]
  case h_5 h => rw [decodeWord_delay (hop.trans h), hidx, cmdMs, extract_eq_ofNat]
  case h_6 h => rw [decodeWord_genpwm (hop.trans h), hidx, cmdDuty, extract_eq_ofNat]
  case h_7 =>
    have h6 : 6 ≤ n % 2 ^ 4 := by simp only [imp_false] at *; omega
    exact decodeWord_reserved (hop ▸ h6)

/-- Settles O7: the masks hold the fields of each operation whole. -/
theorem unnamedBitsIgnored : Obligations.UnnamedBitsIgnored := by
  refine ⟨fun v w hop => ⟨fun h hm => ?init, fun h hm => ?idxOnly, fun h hm => ?delay, fun h hm => ?genpwm,
    fun h => ?reserved⟩, fun v w hm => ?event⟩
  case init =>
    have hidx : cmdIdx v = cmdIdx w := extract_eq_of_mask hm (by decide)
    have hiu : cmdIu v = cmdIu w := extract_eq_of_mask hm (by decide)
    have hmode : cmdMode v = cmdMode w := extract_eq_of_mask hm (by decide)
    have hpre : cmdPre v = cmdPre w := extract_eq_of_mask hm (by decide)
    have hcb : cmdCb v = cmdCb w := extract_eq_of_mask hm (by decide)
    rw [decodeWord_init (cmdOp_toNat_of_mask h), decodeWord_init (cmdOp_toNat_of_mask (hop ▸ h)), hidx, hiu, hmode,
      hpre, hcb]
  case idxOnly =>
    have hidx : cmdIdx v = cmdIdx w := extract_eq_of_mask hm (by decide)
    rcases h with h | h | h
    · rw [decodeWord_deinit (cmdOp_toNat_of_mask h), decodeWord_deinit (cmdOp_toNat_of_mask (hop ▸ h)), hidx]
    · rw [decodeWord_enable (cmdOp_toNat_of_mask h), decodeWord_enable (cmdOp_toNat_of_mask (hop ▸ h)), hidx]
    · rw [decodeWord_disable (cmdOp_toNat_of_mask h), decodeWord_disable (cmdOp_toNat_of_mask (hop ▸ h)), hidx]
  case delay =>
    have hidx : cmdIdx v = cmdIdx w := extract_eq_of_mask hm (by decide)
    have hms : cmdMs v = cmdMs w := extract_eq_of_mask hm (by decide)
    rw [decodeWord_delay (cmdOp_toNat_of_mask h), decodeWord_delay (cmdOp_toNat_of_mask (hop ▸ h)), hidx, hms]
  case genpwm =>
    have hidx : cmdIdx v = cmdIdx w := extract_eq_of_mask hm (by decide)
    have hduty : cmdDuty v = cmdDuty w := extract_eq_of_mask hm (by decide)
    rw [decodeWord_genpwm (cmdOp_toNat_of_mask h), decodeWord_genpwm (cmdOp_toNat_of_mask (hop ▸ h)), hidx, hduty]
  case reserved =>
    have hv : (cmdOp v).toNat = _ := cmdOp_toNat_of_mask rfl
    have hw : (cmdOp w).toNat = _ := cmdOp_toNat_of_mask hop.symm
    rw [decodeWord_reserved (hv ▸ h), decodeWord_reserved (hw ▸ h)]
  case event =>
    exact decodeWord_event_congr (extract_eq_of_mask hm (by decide)) (extract_eq_of_mask hm (by decide))

/-- Settles O6: EIDX is the word's number modulo 4, KIND the bit above it. -/
theorem eventFieldsOfAWord : Obligations.EventFieldsOfAWord := by
  intro w
  rw [← evtEidx_eq_ofNat]
  split
  case isTrue h => exact decodeWord_noSuchTimer ((evtEidx_eq_three_iff w).mpr h)
  case isFalse h =>
    have he : evtEidx w ≠ 3#2 := mt (evtEidx_eq_three_iff w).mp h
    split
    case isTrue hk => exact decodeWord_evtOvf he ((evtKind_eq_zero_iff w).mpr hk)
    case isFalse hk => exact decodeWord_evtCmp he (mt (evtKind_eq_zero_iff w).mp hk)

/-- Settles O12: the word decodes as RESERVED, whose step answers OutOfBoundary. -/
theorem reservedCommandAnswersOutOfBoundary : Obligations.ReservedCommandAnswersOutOfBoundary := by
  intro s w rest hl hf hin h
  have hd : decodeWord (.command w) = .reserved := decodeWord_reserved ((cmdOp_toNat w).symm ▸ h)
  refine ⟨hd, ?_, rfl⟩
  rw [step_port hl hf hin, decode_bytesOfCommand, hd, ← word?_bytesOfCommand w]
  rfl

/-- Settles O13: EIDX = 3 is rejected by the decoder, and by the two events' own meanings. -/
theorem eventOfNoTimerRefused : Obligations.EventOfNoTimerRefused := by
  refine ⟨fun s w rest hl hf hin h => ?_, fun s =>
    ⟨withEventTimer_noSuchTimer fun i => eventStep i .overflow s,
      withEventTimer_noSuchTimer fun i => eventStep i .compare s⟩⟩
  rw [step_port hl hf hin, decode_event, decodeWord_noSuchTimer h]
  rfl

end

section
/-! SUPPORT. Lifecycle commands where the outcome is known beforehand: what INIT answers for arguments that fail or pass
R111, the state it leaves field by field, and ENABLE and DEINIT past their guards. -/

namespace Sys2Proof.Machine

/-! ## INIT (R110 to R114) -/

/-- One illegal argument leaves no record (R111). -/
theorem initRecord?_eq_none {idx : BitVec 8} {iu : BitVec 2} {mode pre : BitVec 3} {cb : BitVec 16}
    (h : 3 ≤ idx.toNat ∨ 2 ≤ iu.toNat ∨ 4 ≤ mode.toNat ∨ 5 ≤ pre.toNat ∨ cb = 0#16) :
    initRecord? idx iu mode pre cb = none := by
  rw [← timerOf?_eq_none, ← usageOf?_eq_none, ← modeOf?_eq_none, ← prescalerOf?_eq_none] at h
  refine Option.eq_none_iff_forall_ne_some.mpr fun r hr => ?_
  obtain ⟨rfl, rfl, rfl, rfl, hcb⟩ := initRecord?_eq_some.mp hr
  simp [hcb] at h

theorem execInit_illegal {idx : BitVec 8} {iu : BitVec 2} {mode pre : BitVec 3} {cb : BitVec 16}
    (h : 3 ≤ idx.toNat ∨ 2 ≤ iu.toNat ∨ 4 ≤ mode.toNat ∨ 5 ≤ pre.toNat ∨ cb = 0#16) (s : State) :
    execInit idx iu mode pre cb s = .next (s.answering .unsupportedConfiguration) := by
  rw [execInit, initRecord?_eq_none h, State.returns_eq]

/-- The codes of a record pass the checks as that record (R111). -/
theorem initRecord?_code (r : InitRecord) {cb : BitVec 16} (hcb : cb ≠ 0#16) :
    initRecord? r.timer.index r.usage.code r.mode.code r.prescaler.code cb = some r :=
  initRecord?_eq_some.mpr ⟨rfl, rfl, rfl, rfl, hcb⟩

/-- An INIT with a legal record finds its slot Unclaimed after lazy initialisation and claims it. -/
theorem execInit_claims {s : State} (r : InitRecord) {cb : BitVec 16} (hcb : cb ≠ 0#16)
    (hu : s.dbi = true → s.slots.get r.timer = Slot.unclaimed) :
    execInit r.timer.index r.usage.code r.mode.code r.prescaler.code cb s = .next (initDone s r cb) := by
  have hslot : (s.lazyInit.slot r.timer).claimed = false := by
    rw [Slot.claimed_eq_false, State.slot_eq, State.lazyInit_eq]
    cases hd : s.dbi
    case false => simp
    case true => simpa using hu hd
  rw [execInit, initRecord?_code r hcb]
  dsimp only
  rw [if_neg (Bool.eq_false_iff.mp hslot), State.returns_eq, initDone]

/-- The hardware programming of INIT field by field (R114). -/
theorem State.initHardware_eq (s : State) (i : TimerId) (u : IntUsage) (m : Mode) :
    s.initHardware i u m =
      { s with
        latches := s.latches.set i
          { s.latches.get i with
            ctrl := ctrlWithWgm (s.latches.get i).ctrl (s.cfg.wgm.code m)
            ie := if u = .interrupt then ieSet (s.latches.get i).ie (sourceOf m) else (s.latches.get i).ie }
        gie := s.gie || decide (u = .interrupt) } := by
  cases u <;> simp [State.initHardware, State.enableSource, State.setWgm, State.setLatch]

/-- The state of a claiming INIT field by field (R110). -/
theorem initDone_eq (s : State) (r : InitRecord) (cb : BitVec 16) :
    initDone s r cb =
      { s.answering .success with
        dbi := true
        slots :=
          (if s.dbi then s.slots else { t0 := Slot.unclaimed, t1 := Slot.unclaimed, t2 := Slot.unclaimed }).set r.timer
            { idx := r.timer.index, mode := r.mode.code, pre := r.prescaler.code, en := false, cb := cb }
        latches := s.latches.set r.timer
          { s.latches.get r.timer with
            ctrl := ctrlWithWgm (s.latches.get r.timer).ctrl (s.cfg.wgm.code r.mode)
            ie :=
              if r.usage = .interrupt then ieSet (s.latches.get r.timer).ie (sourceOf r.mode)
              else (s.latches.get r.timer).ie }
        gie := s.gie || decide (r.usage = .interrupt) } := by
  rw [initDone, State.initHardware_eq, State.lazyInit_eq]
  rfl

/-- The source that a mode's INIT enables is bit 0 of IE for Overflow, bit 1 for the three others (R114). -/
theorem ieSet_sourceOf (ie : BitVec 2) (m : Mode) :
    ieSet ie (sourceOf m) = ie ||| (if m = .overflow then 0b01#2 else 0b10#2) := by
  cases m <;> rfl

/-! ## DEINIT, ENABLE (R120, R124, R125) -/

theorem execDeinit_claimed {s : State} {i : TimerId} (hd : s.dbi = true) (hc : s.slots.get i ≠ Slot.unclaimed) :
    execDeinit i.index s = .next ((s.unclaim i).answering .success) := by
  rw [execDeinit, withIndex_index, withClaimed_claimed hd hc, State.returns_eq]

/-- An enabled slot is Claimed, and ENABLE goes no further than its test of S_EN (R125). -/
theorem execEnable_enabled {s : State} {i : TimerId} (hd : s.dbi = true) (he : (s.slots.get i).en = true) :
    execEnable i.index s = .next (s.answering .outOfBoundary) := by
  rw [execEnable, withIndex_index, withClaimed_claimed hd (Slot.ne_unclaimed_of_en he), State.slot_eq, if_pos he,
    State.returns_eq]

/-- Success leaves the table initialised and the slot enabled (R119). -/
theorem execEnable_success {s t : State} {i : TimerId} (h : execEnable i.index s = .next t)
    (ht : t.out.status = some .success) : t.dbi = true ∧ (t.slots.get i).en = true := by
  rcases execEnable_next h with ⟨c, hc, rfl⟩ | ⟨-, rfl⟩ | ⟨j, p, hij, hd, -, -, -, rfl⟩
  · obtain rfl : c = .success := by simpa using ht
    simp at hc -- ENABLE's other codes are not Success
  · simp at ht -- the fault returns no code
  · obtain rfl := TimerId.index_injective hij
    simp [State.doEnable, hd]

end Sys2Proof.Machine

open Sys2Proof Sys2Proof.Machine

/-- Settles O26: ctrl is CTRL with WGM replaced, whose three fields are read back. -/
theorem initClaimsSlot : Obligations.InitClaimsSlot := by
  intro s i u m p cb hu hcb
  refine ⟨ctrlWithWgm (s.latches.get i).ctrl (s.cfg.wgm.code m), ?_, ctrlCs_withWgm _ _, ctrlWgm_withWgm _ _,
    ctrlReserved_withWgm _ _⟩
  rw [← ieSet_sourceOf]
  exact (execInit_claims ⟨i, u, m, p⟩ hcb hu).trans (congrArg _ (initDone_eq s ⟨i, u, m, p⟩ cb))

/-- Settles O29: an ENABLE that succeeds leaves the slot enabled, where the next one stops. -/
theorem enableTwice : Obligations.EnableTwice := by
  refine ⟨fun s i hd he => execEnable_enabled hd he, fun s t i h ht => ?_⟩
  obtain ⟨hd, he⟩ := execEnable_success h ht
  exact execEnable_enabled hd he

/-- Settles O19: all five commands begin with the index guard. -/
theorem indexGuard : Obligations.IndexGuard :=
  fun s _ _ _ h =>
    have guard := withIndex_illegal h s
    ⟨guard _, guard _, guard _, guard _, guard _⟩

/-- Settles O24: no record passes the argument checks, before any state is read. -/
theorem initRefusesIllegalArguments : Obligations.InitRefusesIllegalArguments :=
  fun s _ _ _ _ _ h => execInit_illegal h s

/-- Settles O27: DEINIT unclaims the slot, and Unclaim writes the slot table only. -/
theorem deinitReleasesSlot : Obligations.DeinitReleasesSlot :=
  fun _ _ hd hc => execDeinit_claimed hd hc

end

section
/-! SUPPORT. A DELAY that passes every check: the operation past its guards, and the state it leaves field by field. -/

namespace Sys2Proof.Machine

/-- A DELAY past its checks arms the timer by the calculator's plan and starts it (R150, R151). -/
theorem execDelay_arms {s : State} {i : TimerId} {p : Prescaler} {ms : BitVec 32} (hms : ms ≠ 0#32)
    (hd : s.dbi = true) (hm : (s.slots.get i).mode.toNat ≤ 1) (he : (s.slots.get i).en = false)
    (hp : (s.slots.get i).pre = p.code) (hT : 1 ≤ overflowTime s.cfg.fcpu p (s.cfg.timers.get i).width)
    (hcount : (calcDelay s.cfg.fcpu p (s.cfg.timers.get i).width ms.toNat).count ≤ 2 ^ 32 - 1) :
    execDelay i.index ms s =
      .next (((s.armDelay i (calcDelay s.cfg.fcpu p (s.cfg.timers.get i).width ms.toNat)).doEnable i p).answering
        .success) := by
  have hmode : delayMode? (s.slots.get i).mode = true := delayMode?_iff.mpr hm
  have hclaimed : s.slots.get i ≠ Slot.unclaimed := Slot.ne_unclaimed_of_mode (Nat.le_trans hm (by decide))
  rw [execDelay, withIndex_index, if_neg hms, withClaimed_claimed hd hclaimed, State.slot_eq, if_neg (by simp [hmode]),
    if_neg (by simp [he]), withPrescaler_code hp, State.timer_eq, if_neg (Nat.ne_of_gt hT)]
  dsimp only
  rw [if_neg (Nat.not_lt.mpr hcount), State.returns_eq]

/-- The arm-write and the enable action in one update (R119, R152). -/
theorem State.armDelay_doEnable_eq (s : State) (i : TimerId) (p : Prescaler) {plan : DelayPlan}
    (h : plan.reload ≤ (s.cfg.timers.get i).width.max) :
    (s.armDelay i plan).doEnable i p =
      { s with
        slots := s.slots.set i { s.slots.get i with en := true }
        ctrs := s.ctrs.set i
          { s.ctrs.get i with
            need := BitVec.ofNat 32 plan.count
            cnt := if s.cfg.armResetsCounter then 0#32 else (s.ctrs.get i).cnt }
        latches := s.latches.set i
          { s.latches.get i with
            ctrl := ctrlWithCs (s.latches.get i).ctrl ((s.cfg.timers.get i).cs.code p)
            tload := if (s.slots.get i).mode = 0#3 then BitVec.ofNat 16 plan.reload else (s.latches.get i).tload
            ocr := if (s.slots.get i).mode = 0#3 then (s.latches.get i).ocr else BitVec.ofNat 16 plan.reload } } := by
  rw [State.armDelay_eq s i h, State.doEnable_eq]
  simp

end Sys2Proof.Machine

open Sys2Proof Sys2Proof.Machine

/-- Settles O33: the formulas are the calculator's plan, and legal parameters make the overflow period positive, so
DELAY passes every check; ctrl is CTRL with CS replaced. -/
theorem delayArmsTimer : Obligations.DelayArmsTimer := by
  intro s i p ms W T N count reload hl hd hm he hp hms hcount
  have hplan : calcDelay s.cfg.fcpu p (s.cfg.timers.get i).width ms.toNat = { count := count, reload := reload } := rfl
  have hms0 : ms ≠ 0#32 := by rintro rfl; exact absurd hms (by decide)
  have hexec := execDelay_arms hms0 hd hm he hp (overflowTime_pos_of_legal hl i p) (hplan ▸ hcount)
  rw [State.armDelay_doEnable_eq s i p (calcDelay_reload_le _ _ _ _), hplan] at hexec
  exact ⟨ctrlWithCs (s.latches.get i).ctrl ((s.cfg.timers.get i).cs.code p), hexec, ctrlCs_withCs _ _,
    ctrlHigh_withCs _ _⟩

end

section
/-! SUPPORT. A GENPWM that passes every check: the operation past its guards, and the state it leaves field by field. -/

namespace Sys2Proof.Machine

/-- A GENPWM past its checks arms the timer by the mapper's thresholds and starts it (R176). -/
theorem execGenpwm_arms {s : State} {i : TimerId} {p : Prescaler} {duty : BitVec 8} (hd : s.dbi = true)
    (h2 : 2 ≤ (s.slots.get i).mode.toNat) (h3 : (s.slots.get i).mode.toNat ≤ 3) (he : (s.slots.get i).en = false)
    (hp : (s.slots.get i).pre = p.code) (h1 : 1 ≤ duty.toNat) (h99 : duty.toNat ≤ 99) :
    execGenpwm i.index duty s =
      .next (((s.armPwm i (calcPwm duty.toNat (s.cfg.timers.get i).width)).doEnable i p).answering .success) := by
  have hduty : dutyLegal duty = true := dutyLegal_iff.mpr ⟨h1, h99⟩
  have hmode : pwmMode? (s.slots.get i).mode = true := pwmMode?_iff.mpr ⟨h2, h3⟩
  rw [execGenpwm, withIndex_index, if_neg (by simp [hduty]), withClaimed_claimed hd (Slot.ne_unclaimed_of_mode h3),
    State.slot_eq, if_neg (by simp [hmode]), if_neg (by simp [he]), withPrescaler_code hp, State.timer_eq,
    State.returns_eq]

/-- The arm-write and the enable action in one update (R119, R177). -/
theorem State.armPwm_doEnable_eq (s : State) (i : TimerId) (p : Prescaler) {th : Thresholds}
    (h : th.on ≤ (s.cfg.timers.get i).width.max) :
    (s.armPwm i th).doEnable i p =
      { s with
        slots := s.slots.set i { s.slots.get i with en := true }
        ctrs := s.ctrs.set i { s.ctrs.get i with on := BitVec.ofNat 16 th.on, off := BitVec.ofNat 16 th.off, tgl := false }
        latches := s.latches.set i
          { s.latches.get i with
            ctrl := ctrlWithCs (s.latches.get i).ctrl ((s.cfg.timers.get i).cs.code p)
            ocr := BitVec.ofNat 16 th.on } } := by
  rw [State.armPwm_eq s i h, State.doEnable_eq]
  simp

end Sys2Proof.Machine

open Sys2Proof Sys2Proof.Machine

/-- Settles O37: the formulas are the mapper's thresholds, ON fits the compare latch, and a slot in a PWM mode is Claimed,
so GENPWM passes every check; ctrl is CTRL with CS replaced. -/
theorem genpwmArmsTimer : Obligations.GenpwmArmsTimer := by
  intro s i p duty MAX on hd h2 h3 he hp h1 h99
  have hthresholds : calcPwm duty.toNat (s.cfg.timers.get i).width = { on := on, off := MAX - on } := rfl
  have hexec := execGenpwm_arms hd h2 h3 he hp h1 h99
  rw [State.armPwm_doEnable_eq s i p (calcPwm_on_le h99 _), hthresholds] at hexec
  exact ⟨ctrlWithCs (s.latches.get i).ctrl ((s.cfg.timers.get i).cs.code p), hexec, ctrlCs_withCs _ _,
    ctrlHigh_withCs _ _⟩

end

section
/-! SUPPORT. Events on the count and the toggle path in the terms of the statements: CNT counts as a number, the thresholds
fit the compare latch, and neither path writes configuration. -/

namespace Sys2Proof

/-- A write of one timer's share that keeps a field of it keeps that field of every timer. -/
theorem Trio.get_set_field {α β : Type} (field : α → β) {t : Trio α} {i : TimerId} {v : α}
    (h : field v = field (t.get i)) (j : TimerId) : field ((t.set i v).get j) = field (t.get j) := by
  rw [Trio.get_set]
  split
  case isTrue hj => rw [hj, h]
  case isFalse => rfl

/-- A counter's increment modulo 2^32, as a number (R192). -/
theorem Count.ofNat_toNat_add_one (c : Count) : BitVec.ofNat 32 (c.toNat + 1) = c + 1#32 := by
  rw [BitVec.ofNat_add, BitVec.ofNat_toNat, BitVec.setWidth_eq]

end Sys2Proof

namespace Sys2Proof.Machine

/-- The thresholds add up to MAX or are both 0, so either one fits the latch (R31, R172). -/
theorem State.WithinWidth.threshold_le {s : State} (h : s.WithinWidth) (i : TimerId) (b : Bool) :
    (if b then (s.ctrs.get i).on else (s.ctrs.get i).off).toNat ≤ (s.cfg.timers.get i).width.max := by
  obtain ⟨-, -, hsum | ⟨hon, hoff⟩⟩ := h i
  · cases b
    case false => exact Nat.le_trans (Nat.le_add_left _ _) (Nat.le_of_eq hsum)
    case true => exact Nat.le_trans (Nat.le_add_right _ _) (Nat.le_of_eq hsum)
  · rw [hon, hoff, ite_self]
    exact Nat.zero_le _

/-! The two events of a timer are its event step (R196, R197). -/

theorem exec_evtOvf_eidx (i : TimerId) (s : State) : exec (.evtOvf i.eidx) s = eventStep i .overflow s :=
  withEventTimer_eidx i fun i => eventStep i .overflow s

theorem exec_evtCmp_eidx (i : TimerId) (s : State) : exec (.evtCmp i.eidx) s = eventStep i .compare s :=
  withEventTimer_eidx i fun i => eventStep i .compare s

/-- An event operation that answers a next state is an event step of some timer. -/
theorem exec_event_next {op : Instr} {s t : State} (hop : ∃ e, op = .evtOvf e ∨ op = .evtCmp e)
    (h : exec op s = .next t) : ∃ i k, eventStep i k s = .next t := by
  obtain ⟨e, rfl | rfl⟩ := hop
  · obtain ⟨i, -, hi⟩ := execEvtOvf_next h
    exact ⟨i, .overflow, hi⟩
  · obtain ⟨i, -, hi⟩ := execEvtCmp_next h
    exact ⟨i, .compare, hi⟩

end Sys2Proof.Machine

open Sys2Proof Sys2Proof.Machine

/-- Settles O44: an event step raises the fault, counts, or toggles; the count path writes CNT, the toggle path TGL and OCR,
and neither writes anything else of a timer. -/
theorem eventsTouchNoConfiguration : Obligations.EventsTouchNoConfiguration := by
  intro op s t hop h
  obtain ⟨i, k, hstep⟩ := exec_event_next hop h
  rcases eventStep_next hstep with ⟨-, rfl⟩ | ⟨-, hcount⟩ | ⟨pin, -, -, -, -, -, htoggle⟩
  · simp -- the fault writes FAULT and clears the outputs
  · rw [countPath_eq] at hcount
    cases hcount
    exact ⟨rfl, rfl, rfl, rfl, rfl, fun j => ⟨rfl, rfl, rfl, Trio.get_set_field Counters.need (by rfl) j,
      Trio.get_set_field Counters.on (by rfl) j, Trio.get_set_field Counters.off (by rfl) j⟩⟩
  · rw [togglePath_eq] at htoggle
    cases htoggle
    exact ⟨rfl, rfl, rfl, rfl, rfl, fun j => ⟨Trio.get_set_field Latches.ctrl (by rfl) j,
      Trio.get_set_field Latches.ie (by rfl) j, Trio.get_set_field Latches.tload (by rfl) j,
      Trio.get_set_field Counters.need (by rfl) j, Trio.get_set_field Counters.on (by rfl) j,
      Trio.get_set_field Counters.off (by rfl) j⟩⟩

/-- Settles O40: an overflow event always takes the count path. -/
theorem overflowEventCounts : Obligations.OverflowEventCounts := by
  intro s i hd
  rw [Count.ofNat_toNat_add_one]
  calc exec (.evtOvf i.eidx) s
    _ = eventStep i .overflow s := exec_evtOvf_eidx i s
    _ = countPath i s := eventStep_count hd (.inl rfl)
    _ = _ := countPath_eq i s

/-- Settles O42: a compare event of an emulated PWM takes the toggle path, whose new threshold fits the latch whole. -/
theorem compareEventToggles : Obligations.CompareEventToggles := by
  intro s i pin hw hd hs h2 h3
  rw [← Width.fit_eq_self _ (hw.threshold_le i (s.ctrs.get i).tgl)]
  calc exec (.evtCmp i.eidx) s
    _ = eventStep i .compare s := exec_evtCmp_eidx i s
    _ = togglePath i pin s := eventStep_toggle hd hs h2 h3
    _ = _ := togglePath_eq i pin s

end

section
/-! SUPPORT. How an operation ends, over all operations at once: by a code, by the fault, by the count path or by the toggle
path; and what a faulted block does. -/

namespace Sys2Proof.Machine

/-- With FAULT set nothing but a reset is taken, and an empty port is no exception (R225). -/
theorem step_faulted {s : State} {f : FaultRecord} (hl : s.cfg.legal = true) (hf : s.fault = some f)
    (hr : s.resetNext = false) : step s = .fault f.reason := by
  have htake : takeInput s = .stop f.reason := by
    match hin : s.inbox with
    | [] => simp [takeInput, hin, hf]
    | .port p :: rest => simp [takeInput, hin, hf]
    | .reset :: rest => simp [State.resetNext, hin] at hr
  rw [step, nextAction, if_pos hl, htake]

/-- An operation returns a code, having written nothing unless it is Success, or raises the fault, or is an event on the
count path or on the toggle path (R190, R191, R220, R221, R224). -/
theorem exec_ends {op : Instr} {s t : State} (h : exec op s = .next t) :
    (∃ u c, t = State.answering u c ∧ (c ≠ .success → u = s)) ∨ t = s.stale ∨
    (∃ i : TimerId, (op = .evtOvf i.eidx ∨ op = .evtCmp i.eidx) ∧ countPath i s = .next t) ∨
    ∃ (i : TimerId) (pin : GpioPin), op = .evtCmp i.eidx ∧ (s.cfg.timers.get i).strategy = .emulation pin ∧
      2 ≤ (s.slots.get i).mode.toNat ∧ (s.slots.get i).mode.toNat ≤ 3 ∧ togglePath i pin s = .next t := by
  have answersSuccess (u : State) : ∃ v c, u.answering .success = State.answering v c ∧ (c ≠ .success → v = s) :=
    ⟨u, .success, rfl, fun hc => absurd rfl hc⟩
  cases exec_effect h with
  | failed c => exact .inl ⟨s, c, rfl, fun _ => rfl⟩
  | stale => exact .inr (.inl rfl)
  | init => exact .inl (answersSuccess _)
  | deinit => exact .inl (answersSuccess _)
  | enable => exact .inl (answersSuccess _)
  | disable => exact .inl (answersSuccess _)
  | delay => exact .inl (answersSuccess _)
  | genpwm => exact .inl (answersSuccess _)
  | count i _ hop hcount => exact .inr (.inr (.inl ⟨i, hop, hcount⟩))
  | toggle i pin _ hs h2 h3 htoggle => exact .inr (.inr (.inr ⟨i, pin, rfl, hs, h2, h3, htoggle⟩))

/-- The count path returns no code and toggles no pin; where it fires, it is with the slot's handle, not null, and CNT is
cleared (R192, R193). -/
theorem countPath_outputs {i : TimerId} {s t : State} (h : countPath i s = .next t) :
    t.out.status = none ∧ t.out.toggle = none ∧
      ∀ f, t.out.fire = some f →
        f = { handle := (s.slots.get i).cb, timer := i } ∧ (s.slots.get i).cb ≠ 0#16 ∧ (t.ctrs.get i).cnt = 0#32 := by
  rw [countPath_eq] at h
  cases h
  refine ⟨rfl, rfl, fun f hf => ?_⟩
  dsimp only at hf
  split at hf
  case isTrue hfires =>
    obtain ⟨hcnt, hcb⟩ := hfires
    cases hf
    exact ⟨rfl, hcb, by simp [hcnt]⟩
  case isFalse => cases hf

/-- The toggle path emits Toggle of its pin and nothing else (R195). -/
theorem togglePath_out {i : TimerId} {pin : GpioPin} {s t : State} (h : togglePath i pin s = .next t) :
    t.out = { status := none, fire := none, toggle := some pin } := by
  rw [togglePath_eq] at h
  cases h
  rfl

end Sys2Proof.Machine

open Sys2Proof Sys2Proof.Machine

/-- Settles O15: FAULT holds a record, so the block is not safe, and its next step stops. -/
theorem faultedBlockStops : Obligations.FaultedBlockStops :=
  fun _ _ hl hf => ⟨fun hsafe => Option.some_ne_none _ (hf.symm.trans hsafe), step_faulted hl hf⟩

/-- Settles O55: only a command returns a code, and where it is not Success, the command left the state as it found it. -/
theorem failingCommandWritesNothing : Obligations.FailingCommandWritesNothing := by
  intro op s t c h hstatus hc
  rcases exec_ends h with ⟨u, d, rfl, hu⟩ | rfl | ⟨i, -, hcount⟩ | ⟨i, pin, -, -, -, -, htoggle⟩
  · obtain rfl : d = c := by simpa using hstatus
    rw [hu hc]
  · simp at hstatus -- the fault returns no code
  · simp [(countPath_outputs hcount).1] at hstatus
  · simp [togglePath_out htoggle] at hstatus

/-- Settles O57: a code and the fault come without a pulse, the count path emits no Toggle and the toggle path no Fire. -/
theorem pulsesOnlyFromEvents : Obligations.PulsesOnlyFromEvents := by
  intro op s t h
  rcases exec_ends h with ⟨u, c, rfl, -⟩ | rfl | ⟨i, hop, hcount⟩ | ⟨i, pin, rfl, hs, h2, h3, htoggle⟩
  · simp
  · simp
  · obtain ⟨-, hnoToggle, hfire⟩ := countPath_outputs hcount
    refine ⟨fun f hf => ?_, fun pin hpin => by simp [hnoToggle] at hpin⟩
    obtain ⟨rfl, hcb, hcnt⟩ := hfire f hf
    exact ⟨hop, hcb, rfl, hcnt, hnoToggle⟩
  · rw [togglePath_out htoggle]
    refine ⟨nofun, fun pin' hpin => ?_⟩
    cases hpin
    exact ⟨i, rfl, hs, h2, h3, rfl⟩

end

section
/-! SUPPORT. The encoder's words read back field by field (R94), and the words that the spec lists. -/

namespace Sys2Proof

theorem evtKind_packEvent (kind : BitVec 1) (eidx : BitVec 2) : evtKind (packEvent kind eidx) = kind := by
  rw [evtKind, packEvent, extract_append_high _ _ (by decide), extract_append_low _ _ (by decide),
    BitVec.extractLsb'_eq_self]

theorem evtEidx_packEvent (kind : BitVec 1) (eidx : BitVec 2) : evtEidx (packEvent kind eidx) = eidx := by
  rw [evtEidx, packEvent, extract_append_low _ _ (by decide), BitVec.extractLsb'_eq_self]

/-- A word taken from its port decodes as the word does. -/
theorem decode_toInput (w : PortWord) : decode w.toInput = decodeWord w := by
  cases w with
  | command w => exact decode_bytesOfCommand w
  | event w => rfl

theorem decodeWord_encode_init (idx : BitVec 8) (iu : BitVec 2) (mode pre : BitVec 3) (cb : BitVec 16) :
    decodeWord (encode (.init idx iu mode pre cb)) = .instr (.init idx iu mode pre cb) := by
  have hiu : cmdIu (packCommand (0#24 ++ cb ++ pre ++ mode ++ iu) idx 0#4) = iu := by
    rw [cmdIu, operands_packCommand _ _ _ 0, extract_append_low _ _ (by decide), BitVec.extractLsb'_eq_self]
  have hmode : cmdMode (packCommand (0#24 ++ cb ++ pre ++ mode ++ iu) idx 0#4) = mode := by
    rw [cmdMode, operands_packCommand _ _ _ 2, extract_append_high _ _ (by decide),
      extract_append_low _ _ (by decide), BitVec.extractLsb'_eq_self]
  have hpre : cmdPre (packCommand (0#24 ++ cb ++ pre ++ mode ++ iu) idx 0#4) = pre := by
    rw [cmdPre, operands_packCommand _ _ _ 5, extract_append_high _ _ (by decide),
      extract_append_high _ _ (by decide), extract_append_low _ _ (by decide), BitVec.extractLsb'_eq_self]
  have hcb : cmdCb (packCommand (0#24 ++ cb ++ pre ++ mode ++ iu) idx 0#4) = cb := by
    rw [cmdCb, operands_packCommand _ _ _ 8, extract_append_high _ _ (by decide),
      extract_append_high _ _ (by decide), extract_append_high _ _ (by decide),
      extract_append_low _ _ (by decide), BitVec.extractLsb'_eq_self]
  rw [encode, decodeWord_init (congrArg BitVec.toNat (cmdOp_packCommand _ _ _)), cmdIdx_packCommand, hiu, hmode, hpre,
    hcb]

theorem decodeWord_encode_delay (idx : BitVec 8) (ms : BitVec 32) :
    decodeWord (encode (.delay idx ms)) = .instr (.delay idx ms) := by
  have hms : cmdMs (packCommand (0#16 ++ ms) idx 4#4) = ms := by
    rw [cmdMs, operands_packCommand _ _ _ 0, extract_append_low _ _ (by decide), BitVec.extractLsb'_eq_self]
  rw [encode, decodeWord_delay (congrArg BitVec.toNat (cmdOp_packCommand _ _ _)), cmdIdx_packCommand, hms]

theorem decodeWord_encode_genpwm (idx duty : BitVec 8) :
    decodeWord (encode (.genpwm idx duty)) = .instr (.genpwm idx duty) := by
  have hduty : cmdDuty (packCommand (0#40 ++ duty) idx 5#4) = duty := by
    rw [cmdDuty, operands_packCommand _ _ _ 0, extract_append_low _ _ (by decide), BitVec.extractLsb'_eq_self]
  rw [encode, decodeWord_genpwm (congrArg BitVec.toNat (cmdOp_packCommand _ _ _)), cmdIdx_packCommand, hduty]

theorem decodeWord_encode_evtOvf {eidx : BitVec 2} (h : eidx ≠ 3#2) :
    decodeWord (encode (.evtOvf eidx)) = .instr (.evtOvf eidx) := by
  rw [encode, decodeWord_evtOvf (by rwa [evtEidx_packEvent]) (evtKind_packEvent _ _), evtEidx_packEvent]

theorem decodeWord_encode_evtCmp {eidx : BitVec 2} (h : eidx ≠ 3#2) :
    decodeWord (encode (.evtCmp eidx)) = .instr (.evtCmp eidx) := by
  rw [encode, decodeWord_evtCmp (by rwa [evtEidx_packEvent]) (by rw [evtKind_packEvent]; decide), evtEidx_packEvent]

end Sys2Proof

open Sys2Proof Sys2Proof.Machine

/-- Settles O4: each field of the encoder's word is read back at its place. -/
theorem encodeThenDecode : Obligations.EncodeThenDecode := by
  intro i hi
  rw [decode_toInput]
  cases i with
  | init idx iu mode pre cb => exact decodeWord_encode_init idx iu mode pre cb
  | deinit idx =>
    rw [encode, decodeWord_deinit (congrArg BitVec.toNat (cmdOp_packCommand _ _ _)), cmdIdx_packCommand]
  | enable idx =>
    rw [encode, decodeWord_enable (congrArg BitVec.toNat (cmdOp_packCommand _ _ _)), cmdIdx_packCommand]
  | disable idx =>
    rw [encode, decodeWord_disable (congrArg BitVec.toNat (cmdOp_packCommand _ _ _)), cmdIdx_packCommand]
  | delay idx ms => exact decodeWord_encode_delay idx ms
  | genpwm idx duty => exact decodeWord_encode_genpwm idx duty
  | evtOvf eidx => exact decodeWord_encode_evtOvf (by simpa [Instr.wellFormed, eidxOk] using hi)
  | evtCmp eidx => exact decodeWord_encode_evtCmp (by simpa [Instr.wellFormed, eidxOk] using hi)

/-- Settles O9: the listed words are literals, so the decoder is evaluated on each. -/
theorem listedWordsDecode : Obligations.ListedWordsDecode := by
  unfold Obligations.ListedWordsDecode
  decide

end

section
/-! SUPPORT. What an operation does to one timer's share of the block: its slot, its counters and its latches. A proof
about the timers one at a time is a case analysis of `ShareStep`. -/

namespace Sys2Proof.Machine

/-- The ways in which operation `op`, taking state `s` to `t`, treats the slot, counters and latches of timer `j`. -/
inductive ShareStep (s t : State) (j : TimerId) : Instr → Prop where
  /-- The share is kept: `op` failed, raised the fault, or is another timer's. -/
  | kept {op : Instr} (hdbi : t.dbi = s.dbi) (hslot : t.slots.get j = s.slots.get j)
      (hctr : t.ctrs.get j = s.ctrs.get j) (hlatch : t.latches.get j = s.latches.get j) : ShareStep s t j op
  /-- Another timer's INIT of a stale table: the slot becomes Unclaimed (R112). -/
  | lazyInit {op : Instr} {i : TimerId} (hi : op.timer? = some i) (hd : s.dbi = false)
      (hslot : t.slots.get j = Slot.unclaimed)
      (hctr : t.ctrs.get j = s.ctrs.get j) (hlatch : t.latches.get j = s.latches.get j) : ShareStep s t j op
  /-- INIT (R110). -/
  | init (u : IntUsage) (m : Mode) (p : Prescaler) (cb : BitVec 16) (hcb : cb ≠ 0#16)
      (hu : s.dbi = true → s.slots.get j = Slot.unclaimed)
      (hslot : t.slots.get j = { idx := j.index, mode := m.code, pre := p.code, en := false, cb := cb })
      (hctr : t.ctrs.get j = s.ctrs.get j)
      (hlatch : t.latches.get j =
        { s.latches.get j with
          ctrl := ctrlWithWgm (s.latches.get j).ctrl (s.cfg.wgm.code m)
          ie := if u = .interrupt then ieSet (s.latches.get j).ie (sourceOf m) else (s.latches.get j).ie }) :
      ShareStep s t j (.init j.index u.code m.code p.code cb)
  /-- DEINIT (R120). -/
  | deinit (hd : s.dbi = true) (hslot : t.slots.get j = Slot.unclaimed)
      (hctr : t.ctrs.get j = s.ctrs.get j) (hlatch : t.latches.get j = s.latches.get j) :
      ShareStep s t j (.deinit j.index)
  /-- ENABLE (R124). -/
  | enable (p : Prescaler) (hd : s.dbi = true) (hc : s.slots.get j ≠ Slot.unclaimed)
      (he : (s.slots.get j).en = false) (hp : (s.slots.get j).pre = p.code)
      (hslot : t.slots.get j = { s.slots.get j with en := true })
      (hctr : t.ctrs.get j = s.ctrs.get j)
      (hlatch : t.latches.get j =
        { s.latches.get j with ctrl := ctrlWithCs (s.latches.get j).ctrl ((s.cfg.timers.get j).cs.code p) }) :
      ShareStep s t j (.enable j.index)
  /-- DISABLE (R128). -/
  | disable (hd : s.dbi = true) (he : (s.slots.get j).en = true)
      (hslot : t.slots.get j = { s.slots.get j with en := false })
      (hctr : t.ctrs.get j = s.ctrs.get j)
      (hlatch : t.latches.get j = { s.latches.get j with ctrl := ctrlWithCs (s.latches.get j).ctrl 0b000#3 }) :
      ShareStep s t j (.disable j.index)
  /-- DELAY by a plan whose reload fits the latch (R150, R152). -/
  | delay (p : Prescaler) (ms : BitVec 32) (plan : DelayPlan) (hr : plan.reload ≤ (s.cfg.timers.get j).width.max)
      (hd : s.dbi = true) (hm : (s.slots.get j).mode.toNat ≤ 1) (he : (s.slots.get j).en = false)
      (hp : (s.slots.get j).pre = p.code)
      (hslot : t.slots.get j = { s.slots.get j with en := true })
      (hctr : t.ctrs.get j =
        { s.ctrs.get j with
          need := BitVec.ofNat 32 plan.count
          cnt := if s.cfg.armResetsCounter then 0#32 else (s.ctrs.get j).cnt })
      (hlatch : t.latches.get j =
        { s.latches.get j with
          ctrl := ctrlWithCs (s.latches.get j).ctrl ((s.cfg.timers.get j).cs.code p)
          tload := if (s.slots.get j).mode = 0#3 then BitVec.ofNat 16 plan.reload else (s.latches.get j).tload
          ocr := if (s.slots.get j).mode = 0#3 then (s.latches.get j).ocr else BitVec.ofNat 16 plan.reload }) :
      ShareStep s t j (.delay j.index ms)
  /-- GENPWM by thresholds that add up to MAX (R172, R176). -/
  | genpwm (p : Prescaler) (duty : BitVec 8) (th : Thresholds) (hth : th.on + th.off = (s.cfg.timers.get j).width.max)
      (hd : s.dbi = true) (h2 : 2 ≤ (s.slots.get j).mode.toNat) (h3 : (s.slots.get j).mode.toNat ≤ 3)
      (he : (s.slots.get j).en = false) (hp : (s.slots.get j).pre = p.code)
      (hslot : t.slots.get j = { s.slots.get j with en := true })
      (hctr : t.ctrs.get j =
        { s.ctrs.get j with on := BitVec.ofNat 16 th.on, off := BitVec.ofNat 16 th.off, tgl := false })
      (hlatch : t.latches.get j =
        { s.latches.get j with
          ctrl := ctrlWithCs (s.latches.get j).ctrl ((s.cfg.timers.get j).cs.code p)
          ocr := BitVec.ofNat 16 th.on }) :
      ShareStep s t j (.genpwm j.index duty)
  /-- An event on the count path (R192). -/
  | count {op : Instr} (hop : op = .evtOvf j.eidx ∨ op = .evtCmp j.eidx) (hd : s.dbi = true)
      (hslot : t.slots.get j = s.slots.get j)
      (hctr : t.ctrs.get j =
        { s.ctrs.get j with
          cnt := if (s.ctrs.get j).cnt + 1#32 = (s.ctrs.get j).need then 0#32 else (s.ctrs.get j).cnt + 1#32 })
      (hlatch : t.latches.get j = s.latches.get j) : ShareStep s t j op
  /-- A compare event on the toggle path (R195). -/
  | toggle (hd : s.dbi = true) (hslot : t.slots.get j = s.slots.get j)
      (hctr : t.ctrs.get j = { s.ctrs.get j with tgl := !(s.ctrs.get j).tgl })
      (hlatch : t.latches.get j =
        { s.latches.get j with
          ocr := (s.cfg.timers.get j).width.fit
            (if (s.ctrs.get j).tgl then (s.ctrs.get j).on else (s.ctrs.get j).off) }) :
      ShareStep s t j (.evtCmp j.eidx)

/-- The share of a timer other than `i` is kept where only timer `i`'s shares are written. -/
theorem ShareStep.kept_of_set {s t : State} {i j : TimerId} {op : Instr} (hj : j ≠ i) {v : Slot} {c : Counters}
    {l : Latches} (hdbi : t.dbi = s.dbi) (hslots : t.slots = s.slots.set i v) (hctrs : t.ctrs = s.ctrs.set i c)
    (hlatches : t.latches = s.latches.set i l) : ShareStep s t j op :=
  .kept hdbi (by rw [hslots, Trio.get_set_of_ne _ _ hj]) (by rw [hctrs, Trio.get_set_of_ne _ _ hj])
    (by rw [hlatches, Trio.get_set_of_ne _ _ hj])

/-- Every operation that answers a next state treats the share of each timer in one of these ways. -/
theorem exec_share {op : Instr} {s t : State} (h : exec op s = .next t) (j : TimerId) : ShareStep s t j op := by
  cases exec_effect h with
  | failed c hc => exact .kept rfl rfl rfl rfl
  | stale hd => exact .kept rfl rfl rfl rfl
  | init r cb hcb hu =>
    rw [initDone_eq]
    by_cases hj : j = r.timer
    · subst hj
      exact .init r.usage r.mode r.prescaler cb hcb hu (by simp) rfl (by simp)
    · cases hd : s.dbi with
      | false =>
        exact .lazyInit (timerOf?_index r.timer) hd (by simp [Trio.get_set_of_ne, hj]) rfl
          (Trio.get_set_of_ne _ _ hj)
      | true => exact .kept hd.symm (by simp [Trio.get_set_of_ne, hj]) rfl (Trio.get_set_of_ne _ _ hj)
  | deinit i hd hc =>
    by_cases hj : j = i
    · subst hj; exact .deinit hd (by simp) rfl rfl
    · exact .kept_of_set hj rfl rfl (Trio.set_get _ _).symm (Trio.set_get _ _).symm
  | enable i p hd hc he hp =>
    rw [State.doEnable_eq]
    by_cases hj : j = i
    · subst hj; exact .enable p hd hc he hp (by simp) rfl (by simp)
    · exact .kept_of_set hj rfl rfl (Trio.set_get _ _).symm rfl
  | disable i hd he =>
    by_cases hj : j = i
    · subst hj; exact .disable hd he (by simp) rfl (by simp)
    · exact .kept_of_set hj rfl rfl (Trio.set_get _ _).symm rfl
  | delay i p ms hd hm he hp hr =>
    rw [State.armDelay_doEnable_eq _ _ _ hr]
    by_cases hj : j = i
    · subst hj; exact .delay p ms _ hr hd hm he hp (by simp) (by simp) (by simp)
    · exact .kept_of_set hj rfl rfl rfl rfl
  | genpwm i p duty hd h2 h3 he hp ht =>
    rw [State.armPwm_doEnable_eq _ _ _ (calcPwm_on_le ht _)]
    by_cases hj : j = i
    · subst hj; exact .genpwm p duty _ (calcPwm_sum ht _) hd h2 h3 he hp (by simp) (by simp) (by simp)
    · exact .kept_of_set hj rfl rfl rfl rfl
  | count i hd hop hcount =>
    rw [countPath_eq] at hcount
    cases hcount
    by_cases hj : j = i
    · subst hj; exact .count hop hd rfl (by simp) rfl
    · exact .kept_of_set hj rfl (Trio.set_get _ _).symm rfl (Trio.set_get _ _).symm
  | toggle i pin hd hs h2 h3 htoggle =>
    rw [togglePath_eq] at htoggle
    cases htoggle
    by_cases hj : j = i
    · subst hj; exact .toggle hd rfl (by simp) (by simp)
    · exact .kept_of_set hj rfl (Trio.set_get _ _).symm rfl rfl

end Sys2Proof.Machine

end

section
/-! SUPPORT. The commands past their operand checks and past the Claimed test, where the outcome is known beforehand. -/

namespace Sys2Proof

theorem Prescaler.code_toNat_le (p : Prescaler) : p.code.toNat ≤ 4 := by cases p <;> decide

end Sys2Proof

namespace Sys2Proof.Machine

theorem Slot.ne_unclaimed_of_pre {v : Slot} (h : v.pre.toNat ≤ 4) : v ≠ Slot.unclaimed := by
  rintro rfl; simp [Slot.unclaimed] at h

/-! ## With legal operands a command comes to the Claimed test (R117, R151, R176) -/

/-- The outcome is decided by the claim guard of timer `i` first (R117). -/
def ClaimGuarded (i : TimerId) (s : State) (o : Result) : Prop := ∃ k, o = withClaimed i s k

theorem ClaimGuarded.stale {i : TimerId} {s : State} {o : Result} (h : ClaimGuarded i s o) (hd : s.dbi = false) :
    o = .next s.stale := by
  obtain ⟨k, rfl⟩ := h
  exact withClaimed_stale hd i k

theorem ClaimGuarded.unclaimed {i : TimerId} {s : State} {o : Result} (h : ClaimGuarded i s o) (hd : s.dbi = true)
    (hu : s.slots.get i = Slot.unclaimed) : o = .next (s.answering .notInitialized) := by
  obtain ⟨k, rfl⟩ := h
  exact withClaimed_unclaimed hd hu k

theorem execDeinit_guarded (i : TimerId) (s : State) : ClaimGuarded i s (execDeinit i.index s) :=
  ⟨_, withIndex_index i s _⟩

theorem execEnable_guarded (i : TimerId) (s : State) : ClaimGuarded i s (execEnable i.index s) :=
  ⟨_, withIndex_index i s _⟩

theorem execDisable_guarded (i : TimerId) (s : State) : ClaimGuarded i s (execDisable i.index s) :=
  ⟨_, withIndex_index i s _⟩

theorem execDelay_guarded {ms : BitVec 32} (hms : ms ≠ 0#32) (i : TimerId) (s : State) :
    ClaimGuarded i s (execDelay i.index ms s) :=
  ⟨_, (withIndex_index i s _).trans (if_neg hms)⟩

theorem execGenpwm_guarded {duty : BitVec 8} (h1 : 1 ≤ duty.toNat) (h99 : duty.toNat ≤ 99) (i : TimerId) (s : State) :
    ClaimGuarded i s (execGenpwm i.index duty s) :=
  ⟨_, (withIndex_index i s _).trans (if_neg (by simp [dutyLegal_iff.mpr ⟨h1, h99⟩]))⟩

/-! ## Operands that are tested before the slot (R151, R176) -/

theorem execDelay_zero (i : TimerId) (s : State) :
    execDelay i.index 0#32 s = .next (s.answering .invalidArguments) := by
  rw [execDelay, withIndex_index, if_pos rfl, State.returns_eq]

theorem execGenpwm_illegalDuty {duty : BitVec 8} (h : duty.toNat = 0 ∨ 100 ≤ duty.toNat) (i : TimerId) (s : State) :
    execGenpwm i.index duty s = .next (s.answering .invalidArguments) := by
  rw [execGenpwm, withIndex_index, if_pos (dutyLegal_false_iff.mpr h), State.returns_eq]

/-! ## What a command answers for a Claimed slot -/

section Claimed

variable {s : State} {i : TimerId} (hd : s.dbi = true) (hc : s.slots.get i ≠ Slot.unclaimed)

include hd hc

theorem execInit_claimed {r : InitRecord} (hi : r.timer = i) {cb : BitVec 16} (hcb : cb ≠ 0#16) :
    execInit i.index r.usage.code r.mode.code r.prescaler.code cb s = .next (s.answering .alreadyInitialized) := by
  have hclaimed : (s.slot r.timer).claimed = true := Slot.claimed_eq_true.mpr (hi ▸ hc)
  rw [← hi, execInit, initRecord?_code r hcb]
  dsimp only
  rw [State.lazyInit_of_dbi hd, if_pos hclaimed, State.returns_eq]

/-- ENABLE of a disabled slot looks up the stored prescaler (R124, R126). -/
theorem execEnable_disabled (he : (s.slots.get i).en = false) :
    execEnable i.index s = withPrescaler i s fun p => (s.doEnable i p).returns .success := by
  rw [execEnable, withIndex_index, withClaimed_claimed hd hc, State.slot_eq, if_neg (by simp [he])]

theorem execDisable_disabled (he : (s.slots.get i).en = false) :
    execDisable i.index s = .next (s.answering .outOfBoundary) := by
  rw [execDisable, withIndex_index, withClaimed_claimed hd hc, State.slot_eq, if_pos he, State.returns_eq]

theorem execDelay_unsupported {ms : BitVec 32} (hms : ms ≠ 0#32)
    (h : 2 ≤ (s.slots.get i).mode.toNat ∨ (s.slots.get i).en = true) :
    execDelay i.index ms s = .next (s.answering .unsupportedFeature) := by
  rw [execDelay, withIndex_index, if_neg hms, withClaimed_claimed hd hc, State.slot_eq]
  split
  · exact State.returns_eq _ _
  · next hm =>
    have hen : (s.slots.get i).en = true := h.resolve_left (mt delayMode?_false_iff.mpr hm)
    rw [if_pos hen, State.returns_eq]

/-- DELAY on a disabled slot of a mode that supports it looks up the stored prescaler (R150, R151). -/
theorem execDelay_supported {ms : BitVec 32} (hms : ms ≠ 0#32) (hm : (s.slots.get i).mode.toNat ≤ 1)
    (he : (s.slots.get i).en = false) :
    execDelay i.index ms s = withPrescaler i s fun p =>
      if overflowTime s.cfg.fcpu p (s.timer i).width = 0 then .refused .illegalConfig
      else
        let plan := calcDelay s.cfg.fcpu p (s.timer i).width ms.toNat
        if 2 ^ 32 - 1 < plan.count then s.returns .invalidArguments
        else ((s.armDelay i plan).doEnable i p).returns .success := by
  have hmode : delayMode? (s.slots.get i).mode = true := delayMode?_iff.mpr hm
  rw [execDelay, withIndex_index, if_neg hms, withClaimed_claimed hd hc, State.slot_eq, if_neg (by simp [hmode]),
    if_neg (by simp [he])]

theorem execDelay_countTooLarge {ms : BitVec 32} (hms : ms ≠ 0#32) (hm : (s.slots.get i).mode.toNat ≤ 1)
    (he : (s.slots.get i).en = false) {p : Prescaler} (hp : (s.slots.get i).pre = p.code)
    (hT : 1 ≤ overflowTime s.cfg.fcpu p (s.cfg.timers.get i).width)
    (hcount : 2 ^ 32 - 1 < (calcDelay s.cfg.fcpu p (s.cfg.timers.get i).width ms.toNat).count) :
    execDelay i.index ms s = .next (s.answering .invalidArguments) := by
  rw [execDelay_supported hd hc hms hm he, withPrescaler_code hp, State.timer_eq, if_neg (Nat.ne_of_gt hT)]
  dsimp only
  rw [if_pos hcount, State.returns_eq]

theorem execGenpwm_unsupported {duty : BitVec 8} (h1 : 1 ≤ duty.toNat) (h99 : duty.toNat ≤ 99)
    (h : (s.slots.get i).mode.toNat ≤ 1 ∨ 4 ≤ (s.slots.get i).mode.toNat ∨ (s.slots.get i).en = true) :
    execGenpwm i.index duty s = .next (s.answering .unsupportedFeature) := by
  have hduty : dutyLegal duty = true := dutyLegal_iff.mpr ⟨h1, h99⟩
  rw [execGenpwm, withIndex_index, if_neg (by simp [hduty]), withClaimed_claimed hd hc, State.slot_eq]
  split
  · exact State.returns_eq _ _
  · next hm =>
    have hen : (s.slots.get i).en = true := (or_assoc.mpr h).resolve_left (mt pwmMode?_false_iff.mpr hm)
    rw [if_pos hen, State.returns_eq]

/-- GENPWM on a disabled slot of a mode that supports it looks up the stored prescaler (R176). -/
theorem execGenpwm_supported {duty : BitVec 8} (h1 : 1 ≤ duty.toNat) (h99 : duty.toNat ≤ 99)
    (h2 : 2 ≤ (s.slots.get i).mode.toNat) (h3 : (s.slots.get i).mode.toNat ≤ 3) (he : (s.slots.get i).en = false) :
    execGenpwm i.index duty s = withPrescaler i s fun p =>
      ((s.armPwm i (calcPwm duty.toNat (s.timer i).width)).doEnable i p).returns .success := by
  have hduty : dutyLegal duty = true := dutyLegal_iff.mpr ⟨h1, h99⟩
  have hmode : pwmMode? (s.slots.get i).mode = true := pwmMode?_iff.mpr ⟨h2, h3⟩
  rw [execGenpwm, withIndex_index, if_neg (by simp [hduty]), withClaimed_claimed hd hc, State.slot_eq,
    if_neg (by simp [hmode]), if_neg (by simp [he])]

theorem execEnable_enables (he : (s.slots.get i).en = false) {p : Prescaler} (hp : (s.slots.get i).pre = p.code) :
    execEnable i.index s = .next ((s.doEnable i p).answering .success) := by
  rw [execEnable_disabled hd hc he, withPrescaler_code hp, State.returns_eq]

end Claimed

/-- An enabled slot is Claimed, and DISABLE stops it (R128). -/
theorem execDisable_enabled {s : State} {i : TimerId} (hd : s.dbi = true) (he : (s.slots.get i).en = true) :
    execDisable i.index s = .next (((s.setCs i 0b000#3).setEnabled i false).answering .success) := by
  rw [execDisable, withIndex_index, withClaimed_claimed hd (Slot.ne_unclaimed_of_en he), State.slot_eq,
    if_neg (by simp [he]), State.returns_eq]

/-- The enable action undoes DISABLE where CTRL.CS was the prescaler's code (R119, R128, R271). -/
theorem State.disable_then_enable {s : State} {i : TimerId} {p : Prescaler} (he : (s.slots.get i).en = true)
    (hcs : ctrlCs (s.latches.get i).ctrl = (s.cfg.timers.get i).cs.code p) :
    ((((s.setCs i 0b000#3).setEnabled i false).answering .success).doEnable i p).answering .success =
      s.answering .success := by
  have hslot : { s.slots.get i with en := true } = s.slots.get i := by rw [← he]
  have hlatch : { s.latches.get i with
      ctrl := ctrlWithCs (ctrlWithCs (s.latches.get i).ctrl 0b000#3) ((s.cfg.timers.get i).cs.code p) } =
      s.latches.get i := by rw [← hcs, ctrlWithCs_restore]
  simp [State.doEnable_eq, State.answering, hslot, hlatch]

end Sys2Proof.Machine

open Sys2Proof Sys2Proof.Machine

/-- Settles O20: past its operand checks, each command begins with the test of DBI. -/
theorem staleTableFaults : Obligations.StaleTableFaults :=
  fun s i _ _ hd hms h1 h99 =>
    ⟨(execDeinit_guarded i s).stale hd, (execEnable_guarded i s).stale hd, (execDisable_guarded i s).stale hd,
      (execDelay_guarded hms i s).stale hd, (execGenpwm_guarded h1 h99 i s).stale hd⟩

/-- Settles O21: past its operand checks and DBI, each command tests that the slot is Claimed. -/
theorem unclaimedSlotNotInitialized : Obligations.UnclaimedSlotNotInitialized :=
  fun s i _ _ hd hu hms h1 h99 =>
    ⟨(execDeinit_guarded i s).unclaimed hd hu, (execEnable_guarded i s).unclaimed hd hu,
      (execDisable_guarded i s).unclaimed hd hu, (execDelay_guarded hms i s).unclaimed hd hu,
      (execGenpwm_guarded h1 h99 i s).unclaimed hd hu⟩

/-- Settles O22: the Claimed test compares all five fields. -/
theorem claimedTest : Obligations.ClaimedTest :=
  ⟨rfl, fun _ => Slot.claimed_eq_false⟩

/-- Settles O23: past the tests of the slot, each of the three commands looks up the stored prescaler. -/
theorem invalidStoredPrescaler : Obligations.InvalidStoredPrescaler :=
  fun _ _ _ _ hd hc he hp =>
    have invalid := withPrescaler_invalid hp
    ⟨(execEnable_disabled hd hc he).trans (invalid _),
      fun hm hms => (execDelay_supported hd hc hms hm he).trans (invalid _),
      fun h2 h3 h1 h99 => (execGenpwm_supported hd hc h1 h99 h2 h3 he).trans (invalid _)⟩

/-- Settles O25: past its argument checks, INIT tests that the slot is not Claimed. -/
theorem initOfClaimedSlot : Obligations.InitOfClaimedSlot :=
  fun _ i u m p _ hd hc hcb => execInit_claimed hd hc (r := ⟨i, u, m, p⟩) rfl hcb

/-- Settles O28: ctrl is CTRL with CS replaced. -/
theorem enableStartsTimer : Obligations.EnableStartsTimer :=
  fun s i p hd hc he hp =>
    ⟨ctrlWithCs (s.latches.get i).ctrl ((s.cfg.timers.get i).cs.code p), execEnable_enables hd hc he hp,
      ctrlCs_withCs _ _, ctrlHigh_withCs _ _⟩

/-- Settles O30: ctrl is CTRL with CS replaced by 0. -/
theorem disableStopsTimer : Obligations.DisableStopsTimer :=
  fun s i hd he =>
    ⟨ctrlWithCs (s.latches.get i).ctrl 0b000#3, execDisable_enabled hd he, ctrlCs_withCs _ _, ctrlHigh_withCs _ _⟩

/-- Settles O31: past the Claimed test, DISABLE tests that the slot is enabled. -/
theorem disableTwice : Obligations.DisableTwice :=
  fun _ _ hd hc he => execDisable_disabled hd hc he

/-- Settles O34: DELAY's checks in their order; legal parameters make the overflow period positive. -/
theorem delayRejections : Obligations.DelayRejections :=
  fun s i _ => ⟨execDelay_zero i s, fun hms hd hc =>
    ⟨execDelay_unsupported hd hc hms, fun p hl hm he hp =>
      execDelay_countTooLarge hd hc hms hm he hp (overflowTime_pos_of_legal hl i p)⟩⟩

/-- Settles O38: GENPWM's checks in their order. -/
theorem genpwmRejections : Obligations.GenpwmRejections :=
  fun s i _ => ⟨fun h => execGenpwm_illegalDuty h i s, fun h1 h99 hd hc => execGenpwm_unsupported hd hc h1 h99⟩

/-- Settles O32: DISABLE clears CS and the enabled flag only, and ENABLE writes back the CS that the running slot had. -/
theorem disableThenEnableResumes : Obligations.DisableThenEnableResumes := by
  intro s i hclock hd he
  obtain ⟨p, hp, hcs⟩ := hclock hd i he
  have hdisabled : (((s.setCs i 0b000#3).setEnabled i false).answering .success).slots.get i =
      { s.slots.get i with en := false } := by simp
  have hclaimed : { s.slots.get i with en := false } ≠ Slot.unclaimed :=
    Slot.ne_unclaimed_of_pre (le_of_eq_of_le (congrArg BitVec.toNat hp) p.code_toNat_le)
  have henable := execEnable_enables (p := p) (s := ((s.setCs i 0b000#3).setEnabled i false).answering .success) hd
    (hdisabled ▸ hclaimed) (by rw [hdisabled]) (by rw [hdisabled, hp])
  rw [State.disable_then_enable he hcs] at henable
  exact ⟨_, execDisable_enabled hd he, rfl, rfl, henable⟩

end

section
/-! SUPPORT. Operations on a stale table: the operands alone decide how each ends (R26, R112, R117, R190). -/

namespace Sys2Proof.Machine

/-- How an operation ends on a stale table, whatever the slot fields hold. -/
inductive StaleEnd where
  | answers (c : Status)
  | faults
  | claims (r : InitRecord) (cb : BitVec 16)
  | refuses (r : Refusal)

/-- The outcome of such an end from a given state. -/
def StaleEnd.outcome (s : State) : StaleEnd → Result
  | .answers c => .next (s.answering c)
  | .faults => .next s.stale
  | .claims r cb => .next (initDone s r cb)
  | .refuses r => .refused r

theorem TimerId.exists_index_or_illegal (idx : BitVec 8) : (∃ i : TimerId, idx = i.index) ∨ 3 ≤ idx.toNat := by
  cases h : timerOf? idx with
  | none => exact .inr (timerOf?_eq_none.mp h)
  | some i => exact .inl ⟨i, timerOf?_eq_some.mp h⟩

theorem TimerId.exists_eidx_or_illegal (e : BitVec 2) : (∃ i : TimerId, e = i.eidx) ∨ e = 3#2 := by
  cases h : eventTimer? e with
  | none => exact .inr (eventTimer?_eq_none.mp h)
  | some i => exact .inl ⟨i, eventTimer?_eq_some.mp h⟩

/-- The operands alone decide how an operation ends on a stale table. -/
theorem exec_staleEnd (op : Instr) : ∃ e : StaleEnd, ∀ s : State, s.dbi = false → exec op s = e.outcome s := by
  have illegal {idx : BitVec 8} (k : State → TimerId → Result) (h : 3 ≤ idx.toNat) :
      ∃ e : StaleEnd, ∀ s : State, s.dbi = false → withIndex idx s (k s) = e.outcome s :=
    ⟨.answers .invalidArguments, fun s _ => withIndex_illegal h s (k s)⟩
  cases op with
  | init idx iu mode pre cb =>
    cases hr : initRecord? idx iu mode pre cb with
    | none => exact ⟨.answers .unsupportedConfiguration, fun s _ => by simp only [exec, execInit, hr]; rfl⟩
    | some r =>
      obtain ⟨rfl, rfl, rfl, rfl, hcb⟩ := initRecord?_eq_some.mp hr
      exact ⟨.claims r cb, fun s hd => execInit_claims r hcb fun hd' => by simp [hd] at hd'⟩
  | deinit idx =>
    rcases TimerId.exists_index_or_illegal idx with ⟨i, rfl⟩ | h
    · exact ⟨.faults, fun s hd => (execDeinit_guarded i s).stale hd⟩
    · exact illegal _ h
  | enable idx =>
    rcases TimerId.exists_index_or_illegal idx with ⟨i, rfl⟩ | h
    · exact ⟨.faults, fun s hd => (execEnable_guarded i s).stale hd⟩
    · exact illegal _ h
  | disable idx =>
    rcases TimerId.exists_index_or_illegal idx with ⟨i, rfl⟩ | h
    · exact ⟨.faults, fun s hd => (execDisable_guarded i s).stale hd⟩
    · exact illegal _ h
  | delay idx ms =>
    rcases TimerId.exists_index_or_illegal idx with ⟨i, rfl⟩ | h
    · by_cases hms : ms = 0#32
      · exact ⟨.answers .invalidArguments, fun s _ => hms ▸ execDelay_zero i s⟩
      · exact ⟨.faults, fun s hd => (execDelay_guarded hms i s).stale hd⟩
    · exact illegal _ h
  | genpwm idx duty =>
    rcases TimerId.exists_index_or_illegal idx with ⟨i, rfl⟩ | h
    · by_cases hduty : duty.toNat = 0 ∨ 100 ≤ duty.toNat
      · exact ⟨.answers .invalidArguments, fun s _ => execGenpwm_illegalDuty hduty i s⟩
      · exact ⟨.faults, fun s hd => (execGenpwm_guarded (by omega) (by omega) i s).stale hd⟩
    · exact illegal _ h
  | evtOvf e =>
    rcases TimerId.exists_eidx_or_illegal e with ⟨i, rfl⟩ | rfl
    · exact ⟨.faults, fun s hd => (exec_evtOvf_eidx i s).trans (eventStep_stale hd i _)⟩
    · exact ⟨.refuses .noSuchTimer, fun s _ => withEventTimer_noSuchTimer (eventStep · .overflow s)⟩
  | evtCmp e =>
    rcases TimerId.exists_eidx_or_illegal e with ⟨i, rfl⟩ | rfl
    · exact ⟨.faults, fun s hd => (exec_evtCmp_eidx i s).trans (eventStep_stale hd i _)⟩
    · exact ⟨.refuses .noSuchTimer, fun s _ => withEventTimer_noSuchTimer (eventStep · .compare s)⟩

/-- INIT of a stale table leaves nothing of what the slot fields held (R112). -/
theorem initDone_of_stale {s : State} (hd : s.dbi = false) (r : InitRecord) (cb : BitVec 16) (stale : Trio Slot) :
    initDone { s with slots := stale } r cb = initDone s r cb := by
  simp [initDone_eq, hd, State.answering]

end Sys2Proof.Machine

open Sys2Proof Sys2Proof.Machine

/-- Settles O59: on a stale table the operands alone decide how an operation ends, and the slots are kept or made Unclaimed
first. -/
theorem staleTableUnobservable : Obligations.StaleTableUnobservable := by
  intro op s stale hd
  obtain ⟨e, he⟩ := exec_staleEnd op
  rw [he s hd, he { s with slots := stale } hd]
  cases e with
  | answers c => simp [StaleEnd.outcome, hd, State.answering]
  | faults => simp [StaleEnd.outcome, hd, State.stale]
  | claims r cb => simp [StaleEnd.outcome, initDone_of_stale hd, initDone_eq s]
  | refuses r => simp [StaleEnd.outcome]

end

section
/-! SUPPORT. The invariants of every step (R27, R31, R34, R35, R112, R172), each shown of one timer's share at a time. -/

namespace Sys2Proof

theorem Mode.code_toNat_le (m : Mode) : m.code.toNat ≤ 3 := by cases m <;> decide

end Sys2Proof

namespace Sys2Proof.Machine

/-- A Claimed slot of a consistent table is valid, and stays so whatever its enabled flag becomes (R27). -/
theorem Slot.ValidFor.setEnabled {v : Slot} {i : TimerId} (h : v = Slot.unclaimed ∨ v.ValidFor i)
    (hc : v ≠ Slot.unclaimed) (b : Bool) : Slot.ValidFor { v with en := b } i :=
  h.resolve_left hc

theorem exec_keeps_slotsConsistent {op : Instr} {s t : State} (h : exec op s = .next t) (hi : s.SlotsConsistent) :
    t.SlotsConsistent := by
  intro ht j
  cases exec_share h j with
  | kept hdbi hslot => rw [hslot]; exact hi (hdbi ▸ ht) j
  | lazyInit _ _ hslot => exact .inl hslot
  | init u m p cb hcb _ hslot => rw [hslot]; exact .inr ⟨rfl, m.code_toNat_le, p.code_toNat_le, hcb⟩
  | deinit _ hslot => exact .inl hslot
  | enable p hd hc _ _ hslot => rw [hslot]; exact .inr (.setEnabled (hi hd j) hc true)
  | disable hd he hslot => rw [hslot]; exact .inr (.setEnabled (hi hd j) (Slot.ne_unclaimed_of_en he) false)
  | delay p ms plan _ hd hm _ _ hslot =>
    rw [hslot]; exact .inr (.setEnabled (hi hd j) (Slot.ne_unclaimed_of_mode (Nat.le_trans hm (by decide))) true)
  | genpwm p duty th _ hd _ h3 _ _ hslot =>
    rw [hslot]; exact .inr (.setEnabled (hi hd j) (Slot.ne_unclaimed_of_mode h3) true)
  | count _ hd hslot => rw [hslot]; exact hi hd j
  | toggle hd hslot => rw [hslot]; exact hi hd j

/-- No operation writes bits 7:5 of CTRL (R34). -/
theorem exec_keeps_ctrlReserved {op : Instr} {s t : State} (h : exec op s = .next t) (j : TimerId) :
    ctrlReserved (t.latches.get j).ctrl = ctrlReserved (s.latches.get j).ctrl := by
  cases exec_share h j with
  | kept _ _ _ hlatch => rw [hlatch]
  | lazyInit _ _ _ _ hlatch => rw [hlatch]
  | init _ _ _ _ _ _ _ _ hlatch => rw [hlatch, ctrlReserved_withWgm]
  | deinit _ _ _ hlatch => rw [hlatch]
  | enable _ _ _ _ _ _ _ hlatch => rw [hlatch, ctrlReserved_withCs]
  | disable _ _ _ _ hlatch => rw [hlatch, ctrlReserved_withCs]
  | delay _ _ _ _ _ _ _ _ _ _ hlatch => rw [hlatch, ctrlReserved_withCs]
  | genpwm _ _ _ _ _ _ _ _ _ _ _ hlatch => rw [hlatch, ctrlReserved_withCs]
  | count _ _ _ _ hlatch => rw [hlatch]
  | toggle _ _ _ hlatch => rw [hlatch]

/-- The bounds of `State.WithinWidth` for one timer of the given width (R31, R37, R38, R172). -/
def FitsWidth (w : Width) (c : Counters) (l : Latches) : Prop :=
  l.ocr.toNat ≤ w.max ∧ l.tload.toNat ≤ w.max ∧
    (c.on.toNat + c.off.toNat = w.max ∨ (c.on = 0#16 ∧ c.off = 0#16))

theorem State.withinWidth_iff {s : State} :
    s.WithinWidth ↔ ∀ i, FitsWidth (s.cfg.timers.get i).width (s.ctrs.get i) (s.latches.get i) := Iff.rfl

theorem ofNat_toNat_le_max {w : Width} {n : Nat} (h : n ≤ w.max) : (BitVec.ofNat 16 n).toNat ≤ w.max := by
  rw [BitVec.toNat_ofNat]
  exact Nat.le_trans (Nat.mod_le _ _) h

/-- Thresholds that add up to MAX do so as the 16-bit words ON and OFF (R31, R172). -/
theorem ofNat_thresholds_sum {w : Width} {th : Thresholds} (h : th.on + th.off = w.max) :
    (BitVec.ofNat 16 th.on).toNat + (BitVec.ofNat 16 th.off).toNat = w.max := by
  have hmax := w.max_lt
  rw [BitVec.toNat_ofNat, BitVec.toNat_ofNat, Nat.mod_eq_of_lt (by omega), Nat.mod_eq_of_lt (by omega), h]

theorem exec_keeps_withinWidth {op : Instr} {s t : State} (h : exec op s = .next t) (hi : s.WithinWidth) :
    t.WithinWidth := by
  rw [State.withinWidth_iff, (exec_frame h).1]
  intro j
  have hj : FitsWidth (s.cfg.timers.get j).width (s.ctrs.get j) (s.latches.get j) := hi j
  obtain ⟨hocr, htload, hsum⟩ := hj
  cases exec_share h j with
  | kept _ _ hctr hlatch => rw [hctr, hlatch]; exact ⟨hocr, htload, hsum⟩
  | lazyInit _ _ _ hctr hlatch => rw [hctr, hlatch]; exact ⟨hocr, htload, hsum⟩
  | init _ _ _ _ _ _ _ hctr hlatch => rw [hctr, hlatch]; exact ⟨hocr, htload, hsum⟩
  | deinit _ _ hctr hlatch => rw [hctr, hlatch]; exact ⟨hocr, htload, hsum⟩
  | enable _ _ _ _ _ _ hctr hlatch => rw [hctr, hlatch]; exact ⟨hocr, htload, hsum⟩
  | disable _ _ _ hctr hlatch => rw [hctr, hlatch]; exact ⟨hocr, htload, hsum⟩
  | delay _ _ _ hr _ _ _ _ _ hctr hlatch =>
    have hreload := ofNat_toNat_le_max hr
    rw [hctr, hlatch]
    refine ⟨?_, ?_, hsum⟩ <;> dsimp only <;> split <;> assumption
  | genpwm _ _ _ hth _ _ _ _ _ _ hctr hlatch =>
    rw [hctr, hlatch]
    exact ⟨ofNat_toNat_le_max (hth ▸ Nat.le_add_right _ _), htload, .inl (ofNat_thresholds_sum hth)⟩
  | count _ _ _ hctr hlatch => rw [hctr, hlatch]; exact ⟨hocr, htload, hsum⟩
  | toggle _ _ hctr hlatch => rw [hctr, hlatch]; exact ⟨Width.fit_le_max _ _, htload, hsum⟩

theorem exec_keeps_clockFollowsSlot {op : Instr} {s t : State} (h : exec op s = .next t) (hi : s.ClockFollowsSlot) :
    t.ClockFollowsSlot := by
  intro ht j he
  rw [(exec_frame h).1]
  cases exec_share h j with
  | kept hdbi hslot _ hlatch => rw [hslot] at he ⊢; rw [hlatch]; exact hi (hdbi ▸ ht) j he
  | lazyInit _ _ hslot => rw [hslot] at he; cases he
  | init _ _ _ _ _ _ hslot => rw [hslot] at he; cases he
  | deinit _ hslot => rw [hslot] at he; cases he
  | enable p _ _ _ hp hslot _ hlatch => exact ⟨p, by rw [hslot, hp], by rw [hlatch]; exact ctrlCs_withCs _ _⟩
  | disable _ _ hslot => rw [hslot] at he; cases he
  | delay p _ _ _ _ _ _ hp hslot _ hlatch => exact ⟨p, by rw [hslot, hp], by rw [hlatch]; exact ctrlCs_withCs _ _⟩
  | genpwm p _ _ _ _ _ _ _ hp hslot _ hlatch => exact ⟨p, by rw [hslot, hp], by rw [hlatch]; exact ctrlCs_withCs _ _⟩
  | count _ hd hslot _ hlatch => rw [hslot] at he ⊢; rw [hlatch]; exact hi hd j he
  | toggle hd hslot _ hlatch => rw [hslot] at he ⊢; rw [hlatch]; exact hi hd j he

theorem exec_keeps_quietBeforeInit {op : Instr} {s t : State} (h : exec op s = .next t) (hi : s.QuietBeforeInit) :
    t.QuietBeforeInit := by
  intro ht
  obtain ⟨-, -, -, hdbi, -⟩ := exec_frame h
  have hd : s.dbi = false := Bool.eq_false_iff.mpr fun hs => by simp [hdbi hs] at ht
  obtain ⟨e, he⟩ := exec_staleEnd op
  rw [he s hd] at h
  cases e with
  | answers c => cases h; exact hi hd
  | faults => cases h; exact hi hd
  | claims r cb => cases h; rw [initDone_eq] at ht; cases ht -- the INIT has set DBI
  | refuses r => cases h

/-- Only an operation on a stale table leaves FAULT set (R224). -/
theorem exec_faultOnlyStale {op : Instr} {s t : State} (h : exec op s = .next t) (hf : s.fault = none) :
    t.FaultOnlyStale := by
  intro ht
  obtain ⟨-, -, -, -, hfault | ⟨hd, rfl⟩⟩ := exec_frame h
  · exact absurd (hfault.trans hf) ht
  · exact hd

/-! ## After reset (R46, R260) -/

theorem afterReset_ctr (cfg : Config) (i : TimerId) : (State.afterReset cfg).ctrs.get i = Counters.zero :=
  Trio.get_const _ i

theorem afterReset_latch (cfg : Config) (i : TimerId) : (State.afterReset cfg).latches.get i = Latches.zero :=
  Trio.get_const _ i

theorem slotsConsistent_afterReset (cfg : Config) : (State.afterReset cfg).SlotsConsistent := nofun

theorem reservedZero_afterReset (cfg : Config) : (State.afterReset cfg).ReservedZero := by
  intro i
  rw [afterReset_latch]
  decide

theorem withinWidth_afterReset (cfg : Config) : (State.afterReset cfg).WithinWidth := by
  intro i
  rw [afterReset_latch, afterReset_ctr]
  exact ⟨Nat.zero_le _, Nat.zero_le _, .inr ⟨rfl, rfl⟩⟩

theorem quietBeforeInit_afterReset (cfg : Config) : (State.afterReset cfg).QuietBeforeInit :=
  fun _ i => ⟨afterReset_ctr cfg i, afterReset_latch cfg i, rfl⟩

theorem faultOnlyStale_afterReset (cfg : Config) : (State.afterReset cfg).FaultOnlyStale := fun _ => rfl

theorem clockFollowsSlot_afterReset (cfg : Config) : (State.afterReset cfg).ClockFollowsSlot := nofun

end Sys2Proof.Machine

open Sys2Proof Sys2Proof.Machine

/-- Settles O47: INIT writes a valid record, Unclaim the Unclaimed values, and the other commands the enabled flag of a
Claimed slot only. -/
theorem slotTableStaysConsistent : Obligations.SlotTableStaysConsistent :=
  fun _ _ => step_keeps (fun cfg _ => slotsConsistent_afterReset cfg) (fun _ _ hi => hi) (fun _ _ _ hi => hi)
    (fun _ _ _ h _ _ hi => exec_keeps_slotsConsistent h hi)

/-- Settles O48: CTRL is written by field, OCR and TLOAD take values that fit, and ON and OFF the mapper's thresholds. -/
theorem latchesWithinWidth : Obligations.LatchesWithinWidth :=
  fun _ _ => step_keeps (I := fun s => s.ReservedZero ∧ s.WithinWidth)
    (fun cfg _ => ⟨reservedZero_afterReset cfg, withinWidth_afterReset cfg⟩) (fun _ _ hi => hi) (fun _ _ _ hi => hi)
    (fun _ _ _ h _ _ ⟨hz, hw⟩ =>
      ⟨fun j => (exec_keeps_ctrlReserved h j).trans (hz j), exec_keeps_withinWidth h hw⟩)

/-- Settles O49: on a stale table only an INIT writes more than the outputs and FAULT, and it sets DBI. -/
theorem quietUntilFirstInit : Obligations.QuietUntilFirstInit :=
  fun _ _ => step_keeps (I := fun s => s.QuietBeforeInit ∧ s.FaultOnlyStale)
    (fun cfg _ => ⟨quietBeforeInit_afterReset cfg, faultOnlyStale_afterReset cfg⟩) (fun _ _ hi => hi)
    (fun _ _ _ hi => hi)
    (fun _ _ _ h hf _ ⟨hq, _⟩ => ⟨exec_keeps_quietBeforeInit h hq, exec_faultOnlyStale h hf⟩)

/-- Settles O50: each operation that enables a slot writes its prescaler's code to CTRL.CS, and none writes CTRL.CS of a
slot that it leaves enabled otherwise. -/
theorem runningClockFollowsSlot : Obligations.RunningClockFollowsSlot :=
  fun _ _ => step_keeps (fun cfg _ => clockFollowsSlot_afterReset cfg) (fun _ _ hi => hi) (fun _ _ _ hi => hi)
    (fun _ _ _ h _ _ hi => exec_keeps_clockFollowsSlot h hi)

/-- Settles O1: counters and latches are zero, and so are DBI, GIE and FAULT. -/
theorem resetValues : Obligations.ResetValues := by
  refine ⟨fun cfg i => ?_, rfl⟩
  rw [afterReset_ctr, afterReset_latch]
  exact ⟨rfl, rfl, rfl, rfl, rfl, rfl, rfl, rfl, rfl, rfl, rfl, rfl⟩

/-- Settles O2: a reset is taken before FAULT is looked at. -/
theorem resetStepRestoresReset : Obligations.ResetStepRestoresReset :=
  fun _ _ hl hin => step_reset hl hin

/-- Settles O51: DBI is 0 after reset, and every counter and latch is. -/
theorem invariantsHoldAtReset : Obligations.InvariantsHoldAtReset :=
  fun cfg =>
    ⟨slotsConsistent_afterReset cfg, reservedZero_afterReset cfg, withinWidth_afterReset cfg,
      quietBeforeInit_afterReset cfg, faultOnlyStale_afterReset cfg, clockFollowsSlot_afterReset cfg, rfl⟩

end

section
/-! SUPPORT. What a step keeps of the parameters, DBI and FAULT, and which operations may be presented (R225, R230). -/

namespace Sys2Proof.Machine

/-! ## Admission (R230, R249) -/

theorem State.admits_evtOvf_iff {s : State} {i : TimerId} :
    s.admits (.evtOvf i.eidx) = true ↔ ieBit (s.latches.get i).ie .overflow = true ∧ s.gie = true := by
  simp [State.admits, State.admitted]

theorem State.admits_evtCmp_iff {s : State} {i : TimerId} :
    s.admits (.evtCmp i.eidx) = true ↔ ieBit (s.latches.get i).ie .compare = true ∧ s.gie = true := by
  simp [State.admits, State.admitted]

/-- Every command may be presented in every state. -/
theorem admits_of_decodeCommand {w : CmdWord} {op : Instr} (h : decodeCommand w = some op) (s : State) :
    s.admits op = true := by
  unfold decodeCommand at h
  split at h <;> cases h <;> rfl

theorem decodeWord_command_eq_instr {w : CmdWord} {op : Instr} (h : decodeWord (.command w) = .instr op) :
    decodeCommand w = some op := by
  unfold decodeWord at h
  dsimp only at h
  split at h <;> cases h
  assumption

/-- The operation of an event word is an event of one of the three timers (R90, R91). -/
theorem decode_event_eq_instr {w : EvtWord} {op : Instr} (h : decode (.event w) = .instr op) :
    ∃ i : TimerId, op = .evtOvf i.eidx ∨ op = .evtCmp i.eidx := by
  by_cases he : evtEidx w = 3#2
  · rw [decode_event, decodeWord_noSuchTimer he] at h; cases h
  obtain ⟨i, hi⟩ := Option.ne_none_iff_exists'.mp (mt eventTimer?_eq_none.mp he)
  rw [eventTimer?_eq_some] at hi
  by_cases hk : evtKind w = 0#1
  · rw [decode_event, decodeWord_evtOvf he hk, hi] at h; cases h; exact ⟨i, .inl rfl⟩
  · rw [decode_event, decodeWord_evtCmp he hk, hi] at h; cases h; exact ⟨i, .inr rfl⟩

theorem decode_event_ne_reserved (w : EvtWord) : decode (.event w) ≠ .reserved := by
  rw [decode_event, decodeWord]
  split <;> nofun

/-- Only with GIE set is an event admitted, and a block that is quiet before its first INIT has GIE clear (R40, R230). -/
theorem State.QuietBeforeInit.dbi_of_admits {s : State} (hq : s.QuietBeforeInit) {i : TimerId} {op : Instr}
    (hop : op = .evtOvf i.eidx ∨ op = .evtCmp i.eidx) (ha : s.admits op = true) : s.dbi = true := by
  have hgie : s.gie = true := by
    rcases hop with rfl | rfl
    · exact (State.admits_evtOvf_iff.mp ha).2
    · exact (State.admits_evtCmp_iff.mp ha).2
  by_contra hd
  obtain ⟨-, -, hclear⟩ := hq (Bool.eq_false_iff.mpr hd) i
  rw [hgie] at hclear
  cases hclear

/-! ## What a step keeps -/

theorem step_keeps_cfg {s t : State} (h : step s = .next t) : t.cfg = s.cfg := by
  obtain ⟨-, ⟨rest, -, rfl⟩ | ⟨-, -, rfl⟩ | ⟨p, rest, -, -, -, rfl⟩ | ⟨p, rest, op, -, -, -, -, hx⟩⟩ := step_next h
  · rfl
  · rfl
  · rfl
  · exact (exec_frame hx).1

/-- A step that is no reset runs in a block without a fault, and DBI is never cleared (R26, R225). -/
theorem step_of_no_reset {s t : State} (h : step s = .next t) (hr : s.resetNext = false) :
    (s.dbi = true → t.dbi = true) ∧ s.fault = none := by
  obtain ⟨-, ⟨rest, hin, -⟩ | ⟨-, hf, rfl⟩ | ⟨p, rest, -, hf, -, rfl⟩ | ⟨p, rest, op, -, hf, -, -, hx⟩⟩ := step_next h
  · simp [State.resetNext, hin] at hr
  · exact ⟨id, hf⟩
  · exact ⟨id, hf⟩
  · obtain ⟨-, -, -, hdbi, -⟩ := exec_frame hx
    exact ⟨hdbi, hf⟩

/-- A step on an event runs an event that is admitted, in a block without a fault (R90, R230). -/
theorem step_event_next {s t : State} (he : s.eventNext = true) (h : step s = .next t) :
    ∃ (w : EvtWord) (rest : List Input) (i : TimerId) (op : Instr), (op = .evtOvf i.eidx ∨ op = .evtCmp i.eidx) ∧
      s.fault = none ∧ s.admits op = true ∧
      exec op (s.taking (.event w) rest) = .next t := by
  have taken {p : PortInput} {rest : List Input} (hin : s.inbox = .port p :: rest) : ∃ w, p = .event w := by
    cases p with
    | command bytes => simp [State.eventNext, hin] at he
    | event w => exact ⟨w, rfl⟩
  obtain ⟨-, ⟨rest, hin, -⟩ | ⟨hin, -⟩ | ⟨p, rest, hin, -, hd, -⟩ | ⟨p, rest, op, hin, hf, hd, ha, hx⟩⟩ := step_next h
  · simp [State.eventNext, hin] at he
  · simp [State.eventNext, hin] at he
  · obtain ⟨w, rfl⟩ := taken hin
    exact absurd hd (decode_event_ne_reserved w)
  · obtain ⟨w, rfl⟩ := taken hin
    obtain ⟨i, hop⟩ := decode_event_eq_instr hd
    exact ⟨w, rest, i, op, hop, hf, ha, hx⟩

end Sys2Proof.Machine

open Sys2Proof Sys2Proof.Machine

/-- Settles O3: only a reset is taken while FAULT is set, and no operation clears DBI. -/
theorem onlyResetClears : Obligations.OnlyResetClears :=
  fun _ _ => step_of_no_reset

/-- Settles O18: a reset keeps the parameters, and no operation writes them. -/
theorem parametersFixed : Obligations.ParametersFixed :=
  fun _ _ => step_keeps_cfg

/-- Settles O10: a step on a port's input, where the input decodes to an admitted operation. -/
theorem stepRunsDecodedOperation : Obligations.StepRunsDecodedOperation := by
  intro s p rest op hl hf hin hd ha
  refine ⟨?_, decode_wellFormed hd⟩
  simp only [step_port hl hf hin, hd, if_pos ha, State.taking]

/-- Settles O11: an event's admission is read off its IE bit and GIE, and a command's is always true. -/
theorem admissionOfEvents : Obligations.AdmissionOfEvents := by
  refine fun s => ⟨fun i => ⟨State.admits_evtOvf_iff, State.admits_evtCmp_iff⟩, fun w op h => ?_,
    fun p rest op hl hf hin hd ha => ?_⟩
  · exact admits_of_decodeCommand (decodeWord_command_eq_instr h) s
  · simp [step_port hl hf hin, hd, ha]

/-- Settles O43: an event's first test is DBI; and an admitted event finds GIE set, so DBI too, and no fault is raised. -/
theorem eventsFaultOnlyUnadmitted : Obligations.EventsFaultOnlyUnadmitted := by
  refine ⟨fun s i hd => ?_, fun s t hq he h => ?_⟩
  · rw [exec_evtOvf_eidx, exec_evtCmp_eidx]
    exact ⟨eventStep_stale hd i .overflow, eventStep_stale hd i .compare⟩
  · obtain ⟨w, rest, i, op, hop, hf, ha, hx⟩ := step_event_next he h
    have hd : s.dbi = true := hq.dbi_of_admits hop ha
    obtain ⟨-, -, -, -, hfault | ⟨hstale, -⟩⟩ := exec_frame hx
    · exact hfault.trans hf
    · exact absurd hd (Bool.eq_false_iff.mp hstale)

end

section
/-! SUPPORT. Which parameters are legal, as the spec says it (R11, R13), and the ranges of the two calculators' results
(R146, R147, R172). -/

namespace Sys2Proof

/-! ## Legal parameters -/

theorem Prescaler.mem_all (p : Prescaler) : p ∈ Prescaler.all := by cases p <;> decide

/-- The four modes (R22). -/
def Mode.all : List Mode := [.overflow, .compareMatch, .pwm, .phaseCorrectPwm]

theorem Mode.mem_all (m : Mode) : m ∈ Mode.all := by cases m <;> decide

/-- The list of codes has no duplicate, and 0 heads it: the code is never 0 and is injective (R13). -/
theorem CsCodes.legal_iff {c : CsCodes} :
    c.legal = true ↔ (∀ p, c.code p ≠ 0b000#3) ∧ ∀ p q, c.code p = c.code q → p = q := by
  have hlist : c.legal = true ↔ (0b000#3 :: Prescaler.all.map c.code).Nodup := decide_eq_true_iff
  have hnodup : Prescaler.all.Nodup := by decide
  rw [hlist, List.nodup_cons, List.nodup_map_iff_inj_on hnodup]
  simp [Prescaler.mem_all]

theorem WgmCodes.legal_iff {c : WgmCodes} : c.legal = true ↔ ∀ m n, c.code m = c.code n → m = n := by
  have hlist : c.legal = true ↔ (Mode.all.map c.code).Nodup := decide_eq_true_iff
  have hnodup : Mode.all.Nodup := by decide
  rw [hlist, List.nodup_map_iff_inj_on hnodup]
  simp [Mode.mem_all]

theorem TimerConfig.legal_iff {t : TimerConfig} {fcpu : Nat} :
    t.legal fcpu = true ↔ (∀ p, 1 ≤ overflowTime fcpu p t.width) ∧ t.cs.legal = true := by
  simp [TimerConfig.legal, Prescaler.mem_all]

theorem TimerId.forall_iff {P : TimerId → Prop} : (∀ i, P i) ↔ P .t0 ∧ P .t1 ∧ P .t2 :=
  ⟨fun h => ⟨h .t0, h .t1, h .t2⟩, fun ⟨h0, h1, h2⟩ i => by cases i <;> assumption⟩

theorem Config.legal_iff {c : Config} :
    c.legal = true ↔ 1000 ≤ c.fcpu ∧ (∀ i, (c.timers.get i).legal c.fcpu = true) ∧ c.wgm.legal = true := by
  simp [Config.legal, TimerId.forall_iff, Trio.get, and_assoc]

/-! ## The overflow period and the delay calculator -/

/-- TOVF at 8 bits and a divisor of 1 is at least 1 exactly when TICK is at least 4 ns (R140, R141). -/
theorem overflowTime_div1_w8_pos_iff {fcpu : Nat} (h : 1000 ≤ fcpu) :
    1 ≤ overflowTime fcpu .div1 .w8 ↔ fcpu / 1000 ≤ 250000 := by
  have hk : 0 < fcpu / 1000 := Nat.div_pos h (by decide)
  have htick : 4 ≤ tick fcpu .div1 ↔ 4 * (fcpu / 1000) ≤ 1 * 1000000 := Nat.le_div_iff_mul_le hk
  have hT : overflowTime fcpu .div1 .w8 = tick fcpu .div1 * 256 / 1000 := rfl
  omega

/-- The count fits `C` periods exactly when the delay does (R143, R147). -/
theorem planFor_count_le_iff {ms T : Nat} (w : Width) (hms : 0 < ms) (hT : 0 < T) (C : Nat) :
    (planFor ms T w).count ≤ C ↔ ms ≤ C * T / 1000 := by
  obtain ⟨hcover, hleast⟩ := planFor_count_ceil ms w hT
  rw [Nat.le_div_iff_mul_le (by decide)]
  constructor
  · intro h
    exact Nat.le_trans hcover (Nat.mul_le_mul_right T h)
  · intro h
    have hlt : ((planFor ms T w).count - 1) * T < C * T := Nat.lt_of_lt_of_le (hleast hms) h
    have := Nat.lt_of_mul_lt_mul_right hlt
    omega

/-- The reload is what the remainder in ticks leaves of MAX (R144). -/
theorem planFor_reload_add (ms : Nat) {T : Nat} (w : Width) (hT : 0 < T) :
    (planFor ms T w).reload + ms * 1000 % T * w.range / T = w.max :=
  Nat.sub_add_cancel (remTicks_le _ w hT)

/-! ## The thresholds (R171, R172) -/

theorem calcPwm_on_mono {duty duty' : Nat} (h : duty ≤ duty') (w : Width) : (calcPwm duty w).on ≤ (calcPwm duty' w).on :=
  Nat.div_le_div_right (Nat.mul_le_mul_right _ h)

end Sys2Proof

open Sys2Proof Sys2Proof.Machine

/-- Settles O16: legality is read off its checks, and `step` makes them first. -/
theorem illegalParametersRefused : Obligations.IllegalParametersRefused := by
  refine ⟨fun c => ?_, fun s => step_illegal⟩
  rw [Config.legal_iff, WgmCodes.legal_iff]
  simp only [TimerConfig.legal_iff, CsCodes.legal_iff, forall_and, and_assoc]
  rfl

/-- Settles O17: at 8 bits and a divisor of 1 the period is at least 1 from a TICK of 4 ns on. -/
theorem fastestClock : Obligations.FastestClock :=
  fun _ => overflowTime_div1_w8_pos_iff

/-- Settles O35: the count is a ceiling, and the reload what the remainder in ticks leaves of MAX. -/
theorem delayPlanRanges : Obligations.DelayPlanRanges := by
  intro fcpu p w ms hms hT T plan remTicks
  obtain ⟨hcover, hleast⟩ := planFor_count_ceil ms w hT
  have hrem : remTicks ≤ w.max := remTicks_le _ w hT
  have hsum : plan.reload + remTicks = w.max := planFor_reload_add ms w hT
  have hzero (h : ms * 1000 % T = 0) : remTicks = 0 := by simp [remTicks, h]
  have hreload : plan.reload = w.max ↔ remTicks = 0 := by omega
  exact ⟨planFor_count_pos w hms hT, hcover, hleast hms, hrem, hsum, Nat.sub_le _ _, fun h => hreload.mpr (hzero h),
    hreload⟩

/-- Settles O36: the count fits exactly when the delay is covered by 2^32 - 1 periods. -/
theorem delayAcceptedRange : Obligations.DelayAcceptedRange := by
  intro fcpu p w ms hms hT
  have hiff : (calcDelay fcpu p w ms).count ≤ 2 ^ 32 - 1 ↔ ms ≤ (2 ^ 32 - 1) * overflowTime fcpu p w / 1000 :=
    planFor_count_le_iff w hms hT _
  exact ⟨hiff, fun hT' hms' => hiff.mpr (by omega)⟩

/-- Settles O39: the sum and the order hold for both widths, the ranges follow from the formulas at each. -/
theorem thresholdRanges : Obligations.ThresholdRanges := by
  intro duty h1 h99
  refine ⟨fun w => ⟨calcPwm_sum h99 w, fun duty' h => calcPwm_on_mono h w⟩, ?_⟩
  simp only [calcPwm, Width.max_w8, Width.max_w16]
  omega

end

section
/-! SUPPORT. Events counted in a row: CNT runs modulo its period, and Fire comes where it returns to 0 (R192, R199). -/

namespace Sys2Proof

theorem Prescaler.code_injective {p q : Prescaler} (h : p.code = q.code) : p = q :=
  Option.some.inj (by rw [← prescalerOf?_code p, h, prescalerOf?_code])

end Sys2Proof

namespace Sys2Proof.Machine

/-! ## One event on the count path -/

/-- The number of counted events from one Fire to the next: NEED, or 2^32 where NEED = 0 (R192, R199). -/
def Counters.period (c : Counters) : Nat := if c.need = 0#32 then 2 ^ 32 else c.need.toNat

theorem Counters.period_of_zero {c : Counters} (h : c.need = 0#32) : c.period = 2 ^ 32 := if_pos h

theorem Counters.period_of_ne_zero {c : Counters} (h : c.need ≠ 0#32) : c.period = c.need.toNat := if_neg h

theorem Counters.period_pos (c : Counters) : 0 < c.period := by
  by_cases h : c.need = 0#32
  · rw [period_of_zero h]; decide
  · rw [period_of_ne_zero h]; exact Nat.pos_of_ne_zero fun h0 => h (BitVec.eq_of_toNat_eq h0)

theorem Counters.period_le (c : Counters) : c.period ≤ 2 ^ 32 := by
  by_cases h : c.need = 0#32
  · exact Nat.le_of_eq (period_of_zero h)
  · rw [period_of_ne_zero h]; exact Nat.le_of_lt c.need.isLt

/-- NEED is the period modulo 2^32, so a CNT within the period reaches NEED exactly where it comes to the period. -/
theorem Counters.reaches_need_iff {c : Counters} (h : c.cnt.toNat < c.period) :
    c.cnt + 1#32 = c.need ↔ c.cnt.toNat + 1 = c.period := by
  have hneed := c.need.isLt
  rw [← BitVec.toNat_inj, BitVec.toNat_add, BitVec.toNat_ofNat]
  by_cases h0 : c.need = 0#32
  · rw [period_of_zero h0] at h ⊢
    rw [h0, BitVec.toNat_ofNat]
    omega
  · rw [period_of_ne_zero h0] at h ⊢
    omega

/-- The count path moves CNT on by one modulo the period (R192). -/
theorem Counters.count_toNat {c : Counters} (h : c.cnt.toNat < c.period) :
    (if c.cnt + 1#32 = c.need then 0#32 else c.cnt + 1#32).toNat = (c.cnt.toNat + 1) % c.period := by
  have hle := c.period_le
  split
  case isTrue hc => rw [(reaches_need_iff h).mp hc, Nat.mod_self]; rfl
  case isFalse hc =>
    have hlt : c.cnt.toNat + 1 < c.period := Nat.lt_of_le_of_ne h (mt (reaches_need_iff h).mpr hc)
    rw [Nat.mod_eq_of_lt hlt, BitVec.toNat_add_of_lt (Nat.lt_of_lt_of_le hlt hle)]
    rfl

/-- CNT reaches NEED exactly where its count comes to whole periods. -/
theorem Counters.reaches_need_iff_mod {c : Counters} (h : c.cnt.toNat < c.period) :
    c.cnt + 1#32 = c.need ↔ (c.cnt.toNat + 1) % c.period = 0 := by
  rw [reaches_need_iff h]
  constructor
  · intro heq; rw [heq, Nat.mod_self]
  · intro h0; exact Nat.le_antisymm h (Nat.le_of_dvd (Nat.succ_pos _) (Nat.dvd_of_mod_eq_zero h0))

/-- An event that the dispatcher counts for timer `i`: of overflow kind, or under the native strategy, or of a slot in no
PWM mode (R191). -/
def Counted (s : State) (i : TimerId) (op : Instr) : Prop :=
  op = .evtOvf i.eidx ∨
    (op = .evtCmp i.eidx ∧
      ((s.cfg.timers.get i).strategy = .native ∨ (s.slots.get i).mode.toNat ≤ 1 ∨ 4 ≤ (s.slots.get i).mode.toNat))

theorem exec_counted {s : State} {i : TimerId} {op : Instr} (hd : s.dbi = true) (h : Counted s i op) :
    exec op s = countPath i s := by
  rcases h with rfl | ⟨rfl, h⟩
  · exact (exec_evtOvf_eidx i s).trans (eventStep_count hd (.inl rfl))
  · exact (exec_evtCmp_eidx i s).trans (eventStep_count hd (.inr h))

/-- The Fire pulse of a slot with a callback where `n` events make whole periods (R193). -/
def fireAt (s : State) (i : TimerId) (n : Nat) : Option FirePulse :=
  if n % (s.ctrs.get i).period = 0 ∧ (s.slots.get i).cb ≠ 0#16 then some { handle := (s.slots.get i).cb, timer := i }
  else none

/-- A counted event keeps the slots, the parameters and the period, and moves CNT on by one modulo the period. -/
theorem countPath_next (i : TimerId) (s : State) (h : (s.ctrs.get i).cnt.toNat < (s.ctrs.get i).period) :
    ∃ t, countPath i s = .next t ∧ t.cfg = s.cfg ∧ t.dbi = s.dbi ∧ t.slots = s.slots ∧
      (t.ctrs.get i).period = (s.ctrs.get i).period ∧
      (t.ctrs.get i).cnt.toNat = ((s.ctrs.get i).cnt.toNat + 1) % (s.ctrs.get i).period ∧
      t.out.fire = fireAt s i ((s.ctrs.get i).cnt.toNat + 1) := by
  refine ⟨_, countPath_eq i s, rfl, rfl, rfl, ?_, ?_, ?_⟩
  · simp [Counters.period]
  · simpa using Counters.count_toNat h
  · simp only [fireAt, Counters.reaches_need_iff_mod h]

/-! ## Events in a row -/

/-- From CNT within its period, `n` counted events move CNT on by `n` modulo the period. -/
theorem execAll_counted {i : TimerId} {ops : List Instr} {s : State} (hd : s.dbi = true)
    (hlt : (s.ctrs.get i).cnt.toNat < (s.ctrs.get i).period) (hne : ops ≠ []) (hops : ∀ op ∈ ops, Counted s i op) :
    ∃ t, execAll ops s = .next t ∧
      (t.ctrs.get i).cnt.toNat = ((s.ctrs.get i).cnt.toNat + ops.length) % (s.ctrs.get i).period ∧
      t.out.fire = fireAt s i ((s.ctrs.get i).cnt.toNat + ops.length) := by
  induction ops generalizing s with
  | nil => exact absurd rfl hne
  | cons op ops ih =>
    obtain ⟨u, hu, hcfg, hdbi, hslots, hperiod, hcnt, hfire⟩ := countPath_next i s hlt
    have hexec : exec op s = .next u := (exec_counted hd (hops op List.mem_cons_self)).trans hu
    rw [execAll_cons hexec]
    cases ops with
    | nil => exact ⟨u, rfl, hcnt, hfire⟩
    | cons op' ops =>
      have hlt' : (u.ctrs.get i).cnt.toNat < (u.ctrs.get i).period := by
        rw [hcnt, hperiod]
        exact Nat.mod_lt _ (Nat.zero_lt_of_lt hlt)
      have hops' : ∀ op ∈ op' :: ops, Counted u i op := fun o ho => by
        have := hops o (List.mem_cons_of_mem _ ho)
        rwa [Counted, ← hcfg, ← hslots] at this
      obtain ⟨t, ht, hcnt', hfire'⟩ := ih (hdbi.trans hd) hlt' nofun hops'
      refine ⟨t, ht, ?_, ?_⟩
      · rw [hcnt', hperiod, hcnt, Nat.mod_add_mod, List.length_cons (a := op)]
        congr 1; omega
      · rw [hfire', fireAt, fireAt, hperiod, hslots, hcnt, Nat.mod_add_mod, Nat.add_assoc, Nat.add_comm 1]
        rfl

/-! ## After a DELAY that succeeded (R152, R153) -/

theorem execDelay_success {s t : State} {i : TimerId} {ms : BitVec 32} (h : execDelay i.index ms s = .next t)
    (ht : t.out.status = some .success) :
    ∃ p : Prescaler, (s.slots.get i).pre = p.code ∧ (s.slots.get i).mode.toNat ≤ 1 ∧ t.dbi = true ∧
      t.slots.get i = { s.slots.get i with en := true } ∧
      (t.ctrs.get i).need ≠ 0#32 ∧
      (t.ctrs.get i).need.toNat = (calcDelay s.cfg.fcpu p (s.cfg.timers.get i).width ms.toNat).count ∧
      (s.cfg.armResetsCounter = true → (t.ctrs.get i).cnt = 0#32) := by
  rcases execDelay_next h with ⟨c, hc, rfl⟩ | ⟨-, rfl⟩ | ⟨j, p, hij, hms, hd, hm, -, hp, hT, hcount, rfl⟩
  · obtain rfl : c = .success := by simpa using ht
    simp at hc -- DELAY's other codes are not Success
  · simp at ht -- the fault returns no code
  · obtain rfl := TimerId.index_injective hij
    have hms' : 0 < ms.toNat := Nat.pos_of_ne_zero fun h0 => hms (BitVec.eq_of_toNat_eq h0)
    have hpos : 0 < (calcDelay s.cfg.fcpu p (s.cfg.timers.get i).width ms.toNat).count := planFor_count_pos _ hms' hT
    have hneed : (BitVec.ofNat 32 (calcDelay s.cfg.fcpu p (s.cfg.timers.get i).width ms.toNat).count).toNat =
        (calcDelay s.cfg.fcpu p (s.cfg.timers.get i).width ms.toNat).count := by
      rw [BitVec.toNat_ofNat]; omega
    rw [State.armDelay_doEnable_eq s i p (calcDelay_reload_le _ _ _ _)]
    refine ⟨p, hp, hm, hd, Trio.get_set_same _ _ _, ?_, ?_, fun harm => ?_⟩ <;>
      rw [State.answering_ctrs, Trio.get_set_same]
    · exact fun h0 => Nat.ne_of_gt hpos (hneed.symm.trans (congrArg BitVec.toNat h0))
    · exact hneed
    · exact if_pos harm

end Sys2Proof.Machine

open Sys2Proof Sys2Proof.Machine

/-- Settles O41: outside an emulated PWM a compare event takes the count path. -/
theorem compareEventCounts : Obligations.CompareEventCounts := by
  intro s i hd h
  rw [Count.ofNat_toNat_add_one]
  calc exec (.evtCmp i.eidx) s
    _ = countPath i s := exec_counted hd (.inr ⟨rfl, h⟩)
    _ = _ := countPath_eq i s

/-- Settles O45: CNT is within its period from the start, and each event moves it on by one. -/
theorem firePeriod : Obligations.FirePeriod := by
  intro s i ops hd hcnt hne hops n period
  have hzero : (s.ctrs.get i).cnt.toNat = 0 := by rw [hcnt]; rfl
  obtain ⟨t, ht, hcnt', hfire⟩ := execAll_counted hd (hzero ▸ (s.ctrs.get i).period_pos) hne hops
  rw [hzero, Nat.zero_add] at hcnt' hfire
  exact ⟨t, ht, hcnt', hfire⟩

/-- Settles O46: DELAY leaves CNT = 0, NEED the count, and a slot in no PWM mode, so that every event of its timer counts. -/
theorem delayFiresEveryCountEvents : Obligations.DelayFiresEveryCountEvents := by
  intro s t i p ms ops _ harm hp hcb h hstatus hne hops T N count
  obtain ⟨q, hq, hm, hd, hslot, hneed0, hneed, hcnt⟩ := execDelay_success h hstatus
  obtain rfl : p = q := Prescaler.code_injective (hp.symm.trans hq)
  have hperiod : (t.ctrs.get i).period = count := (Counters.period_of_ne_zero hneed0).trans hneed
  have hmode : (t.slots.get i).mode.toNat ≤ 1 := by rw [hslot]; exact hm
  have hzero : (t.ctrs.get i).cnt.toNat = 0 := by rw [hcnt harm]; rfl
  obtain ⟨u, hu, -, hfire⟩ := execAll_counted hd (hzero ▸ (t.ctrs.get i).period_pos) hne
    fun op hop => (hops op hop).imp_right fun hcmp => ⟨hcmp, .inr (.inl hmode)⟩
  refine ⟨u, hu, ?_⟩
  rw [hfire, hzero, Nat.zero_add, fireAt, hperiod, hslot]
  simp only [hcb, ne_eq, not_false_eq_true, and_true]

end

section
/-! SUPPORT. Rules over every operation: what each writes of a timer, what it answers, and what makes a timer Armed. -/

namespace Sys2Proof.Machine

/-! ## Sources and codes -/

/-- INIT alone writes GIE, and never clears it (R40, R114). -/
theorem exec_gie {op : Instr} {s t : State} (h : exec op s = .next t) :
    t.gie = s.gie ∨ ((∃ idx iu mode pre cb, op = .init idx iu mode pre cb) ∧ (s.gie = true → t.gie = true)) := by
  cases exec_effect h with
  | failed => exact .inl rfl
  | stale => exact .inl rfl
  | init r cb => exact .inr ⟨⟨_, _, _, _, _, rfl⟩, fun hg => by simp [initDone_eq, hg]⟩
  | deinit => exact .inl rfl
  | enable => exact .inl rfl
  | disable => exact .inl rfl
  | delay _ _ _ _ _ _ _ hr => rw [State.armDelay_doEnable_eq _ _ _ hr]; exact .inl rfl
  | genpwm _ _ _ _ _ _ _ _ ht => rw [State.armPwm_doEnable_eq _ _ _ (calcPwm_on_le ht _)]; exact .inl rfl
  | count _ _ _ h => rw [countPath_eq] at h; cases h; exact .inl rfl
  | toggle _ _ _ _ _ _ h => rw [togglePath_eq] at h; cases h; exact .inl rfl

/-- The codes that the table gives each command; an event returns none (R220). -/
def codesOf : Instr → List Status
  | .init _ _ _ _ _ => [.success, .unsupportedConfiguration, .alreadyInitialized]
  | .deinit _ => [.success, .invalidArguments, .notInitialized]
  | .enable _ => [.success, .invalidArguments, .notInitialized, .outOfBoundary]
  | .disable _ => [.success, .invalidArguments, .notInitialized, .outOfBoundary]
  | .delay _ _ => [.success, .invalidArguments, .notInitialized, .unsupportedFeature, .outOfBoundary]
  | .genpwm _ _ => [.success, .invalidArguments, .notInitialized, .unsupportedFeature, .outOfBoundary]
  | .evtOvf _ => []
  | .evtCmp _ => []

/-- Only INIT writes IE and WGM of a timer, and it clears no IE bit (R36, R39, R114). -/
theorem exec_sources {op : Instr} {s t : State} (h : exec op s = .next t) (j : TimerId) :
    (∀ k, ieBit (s.latches.get j).ie k = true → ieBit (t.latches.get j).ie k = true) ∧
      ((∀ idx iu mode pre cb, op ≠ .init idx iu mode pre cb) →
        (t.latches.get j).ie = (s.latches.get j).ie ∧
          ctrlWgm (t.latches.get j).ctrl = ctrlWgm (s.latches.get j).ctrl) := by
  cases exec_share h j with
  | kept _ _ _ hlatch => rw [hlatch]; exact ⟨fun _ => id, fun _ => ⟨rfl, rfl⟩⟩
  | lazyInit _ _ _ _ hlatch => rw [hlatch]; exact ⟨fun _ => id, fun _ => ⟨rfl, rfl⟩⟩
  | init _ _ _ _ _ _ _ _ hlatch =>
    refine ⟨fun k hk => ?_, fun hop => absurd rfl (hop _ _ _ _ _)⟩
    rw [hlatch]
    dsimp only
    split
    · exact ieBit_ieSet_mono hk
    · exact hk
  | deinit _ _ _ hlatch => rw [hlatch]; exact ⟨fun _ => id, fun _ => ⟨rfl, rfl⟩⟩
  | enable _ _ _ _ _ _ _ hlatch => rw [hlatch]; exact ⟨fun _ => id, fun _ => ⟨rfl, ctrlWgm_withCs _ _⟩⟩
  | disable _ _ _ _ hlatch => rw [hlatch]; exact ⟨fun _ => id, fun _ => ⟨rfl, ctrlWgm_withCs _ _⟩⟩
  | delay _ _ _ _ _ _ _ _ _ _ hlatch => rw [hlatch]; exact ⟨fun _ => id, fun _ => ⟨rfl, ctrlWgm_withCs _ _⟩⟩
  | genpwm _ _ _ _ _ _ _ _ _ _ _ hlatch => rw [hlatch]; exact ⟨fun _ => id, fun _ => ⟨rfl, ctrlWgm_withCs _ _⟩⟩
  | count _ _ _ _ hlatch => rw [hlatch]; exact ⟨fun _ => id, fun _ => ⟨rfl, rfl⟩⟩
  | toggle _ _ _ hlatch => rw [hlatch]; exact ⟨fun _ => id, fun _ => ⟨rfl, rfl⟩⟩

/-- The codes of `op` other than Success are those with which it fails. -/
theorem status_of_ends {op : Instr} {s t : State} {codes : List Status} (hcodes : codesOf op = .success :: codes)
    (h : (∃ c, c ∈ codes ∧ t = s.answering c) ∨ (s.dbi = false ∧ t = s.stale) ∨ t.out.status = some .success) :
    (∃ c ∈ codesOf op, t.out.status = some c) ∨ t = s.stale := by
  rw [hcodes]
  rcases h with ⟨c, hc, rfl⟩ | ⟨-, rfl⟩ | hsuccess
  · exact .inl ⟨c, List.mem_cons_of_mem _ hc, rfl⟩
  · exact .inr rfl
  · exact .inl ⟨.success, List.mem_cons_self, hsuccess⟩

/-- A command returns one of its codes or raises the fault (R220, R224). -/
theorem exec_command_status {op : Instr} {s t : State} (hop : codesOf op ≠ []) (h : exec op s = .next t) :
    (∃ c ∈ codesOf op, t.out.status = some c) ∨ t = s.stale := by
  cases op with
  | init idx iu mode pre cb =>
    rcases execInit_next h with rfl | ⟨r, -, -, -, rfl⟩ | ⟨r, -, -, -, rfl⟩
    · exact .inl ⟨.unsupportedConfiguration, by simp [codesOf], rfl⟩
    · exact .inl ⟨.alreadyInitialized, by simp [codesOf], rfl⟩
    · exact .inl ⟨.success, by simp [codesOf], rfl⟩
  | deinit idx =>
    exact status_of_ends rfl ((execDeinit_next h).imp_right (.imp_right (by rintro ⟨_, _, _, _, rfl⟩; rfl)))
  | enable idx =>
    exact status_of_ends rfl ((execEnable_next h).imp_right (.imp_right (by rintro ⟨_, _, _, _, _, _, _, rfl⟩; rfl)))
  | disable idx =>
    exact status_of_ends rfl ((execDisable_next h).imp_right (.imp_right (by rintro ⟨_, _, _, _, rfl⟩; rfl)))
  | delay idx ms =>
    exact status_of_ends rfl
      ((execDelay_next h).imp_right (.imp_right (by rintro ⟨_, _, _, _, _, _, _, _, _, _, rfl⟩; rfl)))
  | genpwm idx duty =>
    exact status_of_ends rfl
      ((execGenpwm_next h).imp_right (.imp_right (by rintro ⟨_, _, _, _, _, _, _, _, _, _, rfl⟩; rfl)))
  | evtOvf e => exact absurd rfl hop
  | evtCmp e => exact absurd rfl hop

/-- An operation that has no codes is an event. -/
theorem event_of_codesOf_eq_nil {op : Instr} (h : codesOf op = []) : ∃ e, op = .evtOvf e ∨ op = .evtCmp e := by
  cases op with
  | evtOvf e => exact ⟨e, .inl rfl⟩
  | evtCmp e => exact ⟨e, .inr rfl⟩
  | _ => cases h

/-- Whatever returns a code has raised no fault, and the fault returns none (R220, R224). -/
theorem exec_codes {op : Instr} {s t : State} (hf : s.fault = none) (h : exec op s = .next t) :
    (∀ c, t.out.status = some c → c ∈ codesOf op) ∧
      (codesOf op ≠ [] → (t.out.status = none ↔ t.fault ≠ none)) := by
  by_cases hop : codesOf op = []
  · obtain ⟨hstatus, -⟩ := eventsTouchNoConfiguration op s t (event_of_codesOf_eq_nil hop) h
    exact ⟨fun c hc => by simp [hstatus] at hc, fun hne => absurd hop hne⟩
  obtain ⟨-, -, -, -, hfault⟩ := exec_frame h
  rcases exec_command_status hop h with ⟨c, hc, hstatus⟩ | rfl
  · have hnone : t.fault = none := hfault.elim (·.trans hf) fun ⟨_, ht⟩ => by simp [ht] at hstatus
    simp [hstatus, hnone, hc]
  · simp

/-! ## The phase Armed (R194) -/

theorem exec_keeps_armed {op : Instr} {s t : State} {i : TimerId} (h : exec op s = .next t)
    (harmed : s.phase i = some .armed) :
    t.phase i = some .armed ∨ op = .disable i.index ∨ op = .deinit i.index := by
  obtain ⟨hd, hm, he, hneed⟩ := State.phase_eq_armed.mp harmed
  obtain ⟨-, -, -, hdbi, -⟩ := exec_frame h
  have kept (hslot : t.slots.get i = s.slots.get i) (hctr : (t.ctrs.get i).need = (s.ctrs.get i).need) :
      t.phase i = some .armed :=
    State.phase_eq_armed.mpr ⟨hdbi hd, hslot ▸ hm, hslot ▸ he, hctr ▸ hneed⟩
  cases exec_share h i with
  | kept _ hslot hctr => exact .inl (kept hslot (by rw [hctr]))
  | lazyInit _ hstale => rw [hd] at hstale; cases hstale
  | init _ _ _ _ _ hu => exact absurd (hu hd) (Slot.ne_unclaimed_of_en he)
  | deinit => exact .inr (.inr rfl)
  | enable _ _ _ he' => rw [he] at he'; cases he'
  | disable => exact .inr (.inl rfl)
  | delay _ _ _ _ _ _ he' => rw [he] at he'; cases he'
  | genpwm _ _ _ _ _ _ _ he' => rw [he] at he'; cases he'
  | count _ _ hslot hctr => exact .inl (kept hslot (by rw [hctr]))
  | toggle _ hslot hctr => exact .inl (kept hslot (by rw [hctr]))

theorem exec_arms {op : Instr} {s t : State} {i : TimerId} (h : exec op s = .next t)
    (hnot : s.phase i ≠ some .armed) (harmed : t.phase i = some .armed) :
    (∃ ms, op = .delay i.index ms) ∨ (op = .enable i.index ∧ (s.ctrs.get i).need ≠ 0#32) := by
  obtain ⟨hd, hm, he, hneed⟩ := State.phase_eq_armed.mp harmed
  have kept (hdbi : s.dbi = true) (hslot : t.slots.get i = s.slots.get i)
      (hctr : (t.ctrs.get i).need = (s.ctrs.get i).need) : False :=
    hnot (State.phase_eq_armed.mpr ⟨hdbi, hslot ▸ hm, hslot ▸ he, hctr ▸ hneed⟩)
  cases exec_share h i with
  | kept hdbi hslot hctr => exact (kept (hdbi ▸ hd) hslot (by rw [hctr])).elim
  | lazyInit _ _ hslot => rw [hslot] at he; cases he
  | init _ _ _ _ _ _ hslot => rw [hslot] at he; cases he
  | deinit _ hslot => rw [hslot] at he; cases he
  | enable _ _ _ _ _ _ hctr => rw [hctr] at hneed; exact .inr ⟨rfl, hneed⟩
  | disable _ _ hslot => rw [hslot] at he; cases he
  | delay _ ms => exact .inl ⟨ms, rfl⟩
  | genpwm _ _ _ _ _ h2 _ _ _ hslot =>
    rw [hslot] at hm
    exact absurd (Nat.le_trans h2 hm) (by decide)
  | count _ hd hslot hctr => exact (kept hd hslot (by rw [hctr])).elim
  | toggle hd hslot hctr => exact (kept hd hslot (by rw [hctr])).elim

end Sys2Proof.Machine

open Sys2Proof Sys2Proof.Machine

/-- Settles O52: a slot that is Claimed is no INIT's, and the other commands but DEINIT write its enabled flag only. -/
theorem claimedSlotKeepsIdentity : Obligations.ClaimedSlotKeepsIdentity := by
  intro op s t i hd hc h
  cases exec_share h i with
  | kept _ hslot => rw [hslot]; exact .inl ⟨rfl, rfl⟩
  | lazyInit _ hstale => rw [hd] at hstale; cases hstale
  | init _ _ _ _ _ hu => exact absurd (hu hd) hc
  | deinit _ hslot => exact .inr ⟨rfl, hslot⟩
  | enable _ _ _ _ _ hslot => rw [hslot]; exact .inl ⟨rfl, rfl⟩
  | disable _ _ hslot => rw [hslot]; exact .inl ⟨rfl, rfl⟩
  | delay _ _ _ _ _ _ _ _ hslot => rw [hslot]; exact .inl ⟨rfl, rfl⟩
  | genpwm _ _ _ _ _ _ _ _ _ hslot => rw [hslot]; exact .inl ⟨rfl, rfl⟩
  | count _ _ hslot => rw [hslot]; exact .inl ⟨rfl, rfl⟩
  | toggle _ hslot => rw [hslot]; exact .inl ⟨rfl, rfl⟩

/-- Settles O58: the share of a timer that an operation does not name is kept, but that lazy initialisation makes its slot
Unclaimed. -/
theorem timersAreIsolated : Obligations.TimersAreIsolated := by
  intro op s t h j hj
  cases exec_share h j with
  | kept _ hslot hctr hlatch => exact ⟨hctr, hlatch, fun _ => hslot⟩
  | lazyInit hi hd _ hctr hlatch => exact ⟨hctr, hlatch, by simp [hd, hi]⟩
  | init => exact absurd (timerOf?_index j) hj
  | deinit => exact absurd (timerOf?_index j) hj
  | enable => exact absurd (timerOf?_index j) hj
  | disable => exact absurd (timerOf?_index j) hj
  | delay => exact absurd (timerOf?_index j) hj
  | genpwm => exact absurd (timerOf?_index j) hj
  | count hop => rcases hop with rfl | rfl <;> exact absurd (eventTimer?_eidx j) hj
  | toggle => exact absurd (eventTimer?_eidx j) hj

/-- Settles O54: each operation's share step names the counters and latches it writes. -/
theorem writersOfCounters : Obligations.WritersOfCounters := by
  intro op s t i h isDelay isGenpwm isEvent
  cases exec_share h i with
  | kept _ _ hctr hlatch => simp [hctr, hlatch]
  | lazyInit _ _ _ hctr hlatch => simp [hctr, hlatch]
  | init _ _ _ _ _ _ _ hctr hlatch => simp [hctr, hlatch]
  | deinit _ _ hctr hlatch => simp [hctr, hlatch]
  | enable _ _ _ _ _ _ hctr hlatch => simp [hctr, hlatch]
  | disable _ _ _ hctr hlatch => simp [hctr, hlatch]
  | delay _ ms _ _ _ _ _ _ _ hctr hlatch =>
    have hdelay : isDelay := ⟨_, ms, rfl⟩
    simp [hctr, hdelay]
  | genpwm _ duty _ _ _ _ _ _ _ _ hctr hlatch =>
    have hgenpwm : isGenpwm := ⟨_, duty, rfl⟩
    simp [hctr, hlatch, hgenpwm]
  | count hop _ _ hctr hlatch =>
    have hevent : isEvent := ⟨i.eidx, hop⟩
    simp [hctr, hlatch, hevent]
  | toggle _ _ hctr hlatch =>
    have hevent : isEvent := ⟨i.eidx, .inr rfl⟩
    simp [hctr, hlatch, hevent]

/-- Settles O53: GIE is written by INIT only, and so are IE and WGM of each timer. -/
theorem onlyInitConfiguresSources : Obligations.OnlyInitConfiguresSources := by
  intro op s t i h
  obtain ⟨hie, hkept⟩ := exec_sources h i
  rcases exec_gie h with hgie | ⟨⟨idx, iu, mode, pre, cb, rfl⟩, hgie⟩
  · exact ⟨hgie.trans, hie, fun hop => ⟨hgie, hkept hop⟩⟩
  · exact ⟨hgie, hie, fun hop => absurd rfl (hop _ _ _ _ _)⟩

/-- Settles O56: each command's ends are an answer with one of its codes and the fault; an event returns none. -/
theorem statusCodesOfCommands : Obligations.StatusCodesOfCommands := by
  refine ⟨fun op s t hf h => ?_, rfl, rfl, rfl, rfl, rfl, rfl, rfl⟩
  have hcodes := exec_codes hf h
  cases op <;> exact hcodes

/-- Settles O60: in the two DELAY modes ENABLE and DELAY alone enable a slot, and DISABLE and DEINIT alone end that; DELAY
alone writes NEED, with a count that is not 0. -/
theorem armedUntilDisabled : Obligations.ArmedUntilDisabled := by
  refine ⟨fun op s t i harmed h => ?_, fun s t i ms h hstatus => ?_, fun op s t i hnot h harmed => ?_⟩
  · exact exec_keeps_armed h harmed
  · obtain ⟨p, -, hm, hd, hslot, hneed, -⟩ := execDelay_success h hstatus
    rw [State.phase_eq_armed, hslot]
    exact ⟨hd, hm, rfl, hneed⟩
  · exact exec_arms h hnot harmed

end
